-- ==== Sys2Proof/Word.lean ====
section
/-! DEFINITION. The two bit-vector widths of the machine (00_scope.md R6, R9). -/

namespace Sys2Proof

/-- A 16-bit register, bus value, address or instruction word (00_scope.md R9). -/
abbrev Word := BitVec 16

/-- One byte of memory (20_memory.md R60). -/
abbrev Byte := BitVec 8

/-- The number of a general register, 0 to 15 (10_state.md R20, R21). -/
abbrev Reg := Fin 16

end Sys2Proof
end

