-- ==== Sys2Proof/Config.lean ====
section
/-! DEFINITION. The one named parameter of the spec (92_eei_decisions.md, "Named parameter") and the fixed sizes. -/

namespace Sys2Proof.Config

/-- `INT_VECTOR`: what `raise_interrupt()` puts in IVR and where `load_program` writes the `reti` word
(00_scope.md R7, 92_eei_decisions.md D18). The source fixes it at 1000 = 0x03E8. -/
def intVector : Word := 0x03E8#16

/-- The number of bytes of memory (20_memory.md R60). -/
def memoryBytes : Nat := 65536

end Sys2Proof.Config
end

