-- ==== Sys2Proof/Syntax.lean ====
section
/-! DEFINITION. The instructions of the XASM ISA, one constructor for each row of the opcode table (30_encoding.md R101 to
R104). An operand is a mode field and a register field, exactly as the instruction word holds them; extension words are
data of the operand fetch (30_encoding.md R90, 40_phase_control.md R143 to R150), read from memory when it runs. -/

namespace Sys2Proof

/-- The addressing modes (30_encoding.md R97). -/
inductive Mode where
  /-- ModeA, immediate: the extension word itself. -/
  | modeA
  /-- ModeB, register direct. -/
  | modeB
  /-- ModeC, register indirect. -/
  | modeC
  /-- ModeD, indexed: register plus extension word. -/
  | modeD
deriving DecidableEq, Repr

/-- The four instruction classes (30_encoding.md R91). -/
inductive InstrClass where
  | class1 | class2 | class3 | class4
deriving DecidableEq, Repr

/-- An instruction. `mas` and `rs` are the source's mode and register, `mad` and `rd` the destination's (30_encoding.md
R93, R94); `disp` is the branch displacement (R95). -/
inductive Instr where
  -- Class1, two operands (42_class1_two_operand.md)
  | mov (mas : Mode) (rs : Reg) (mad : Mode) (rd : Reg)
  | add (mas : Mode) (rs : Reg) (mad : Mode) (rd : Reg)
  | sub (mas : Mode) (rs : Reg) (mad : Mode) (rd : Reg)
  | cmp (mas : Mode) (rs : Reg) (mad : Mode) (rd : Reg)
  | and (mas : Mode) (rs : Reg) (mad : Mode) (rd : Reg)
  | or (mas : Mode) (rs : Reg) (mad : Mode) (rd : Reg)
  | xor (mas : Mode) (rs : Reg) (mad : Mode) (rd : Reg)
  -- Class2, one operand (43_class2_one_operand.md)
  | clr (mad : Mode) (rd : Reg)
  | neg (mad : Mode) (rd : Reg)
  | inc (mad : Mode) (rd : Reg)
  | dec (mad : Mode) (rd : Reg)
  | asl (mad : Mode) (rd : Reg)
  | asr (mad : Mode) (rd : Reg)
  | lsr (mad : Mode) (rd : Reg)
  | rol (mad : Mode) (rd : Reg)
  | ror (mad : Mode) (rd : Reg)
  | rlc (mad : Mode) (rd : Reg)
  | rrc (mad : Mode) (rd : Reg)
  | jmp (mad : Mode) (rd : Reg)
  | call (mad : Mode) (rd : Reg)
  | push (mad : Mode) (rd : Reg)
  | pop (mad : Mode) (rd : Reg)
  -- Class3, relative branches (44_class3_branches.md)
  | br (disp : BitVec 8)
  | bne (disp : BitVec 8)
  | beq (disp : BitVec 8)
  | bpl (disp : BitVec 8)
  | bcs (disp : BitVec 8)
  | bcc (disp : BitVec 8)
  | bvs (disp : BitVec 8)
  | bvc (disp : BitVec 8)
  -- Class4, no operand (45_class4_control.md; reti in 60_exceptions.md R355)
  | clc
  | clv
  | clz
  | cls
  | sec
  | sev
  | sez
  | ses
  | ccc
  | scc
  | nop
  | ret
  | reti
  | halt
  | wait
  | pushpc
  | poppc
  | pushflag
  | popflag
deriving DecidableEq, Repr

end Sys2Proof
end

