-- ==== Sys2Proof/WellFormed.lean ====
section
/-! DEFINITION. Which instructions have a defined behaviour (30_encoding.md R106). Every term of `Instr` is some legal
word; the one combination of fields that the spec leaves without a behaviour is a ModeD source with a ModeB destination.
Such a word decodes and passes fetch, and then halts the core (R106, 60_exceptions.md R343). -/

namespace Sys2Proof

/-- The addressing resolver defines this pair of modes (30_encoding.md R106). -/
def combinationDefined (mas mad : Mode) : Bool :=
  !(mas == .modeD && mad == .modeB)

/-- An instruction with a defined behaviour: a Class1 instruction whose pair of modes is defined, or any other
instruction (30_encoding.md R106, 43_class2_one_operand.md R230). -/
def Instr.wellFormed : Instr → Bool
  | .mov mas _ mad _ => combinationDefined mas mad
  | .add mas _ mad _ => combinationDefined mas mad
  | .sub mas _ mad _ => combinationDefined mas mad
  | .cmp mas _ mad _ => combinationDefined mas mad
  | .and mas _ mad _ => combinationDefined mas mad
  | .or mas _ mad _ => combinationDefined mas mad
  | .xor mas _ mad _ => combinationDefined mas mad
  | .clr _ _ => true
  | .neg _ _ => true
  | .inc _ _ => true
  | .dec _ _ => true
  | .asl _ _ => true
  | .asr _ _ => true
  | .lsr _ _ => true
  | .rol _ _ => true
  | .ror _ _ => true
  | .rlc _ _ => true
  | .rrc _ _ => true
  | .jmp _ _ => true
  | .call _ _ => true
  | .push _ _ => true
  | .pop _ _ => true
  | .br _ => true
  | .bne _ => true
  | .beq _ => true
  | .bpl _ => true
  | .bcs _ => true
  | .bcc _ => true
  | .bvs _ => true
  | .bvc _ => true
  | .clc => true
  | .clv => true
  | .clz => true
  | .cls => true
  | .sec => true
  | .sev => true
  | .sez => true
  | .ses => true
  | .ccc => true
  | .scc => true
  | .nop => true
  | .ret => true
  | .reti => true
  | .halt => true
  | .wait => true
  | .pushpc => true
  | .poppc => true
  | .pushflag => true
  | .popflag => true

end Sys2Proof
end

