-- ==== Sys2Proof/Decode.lean ====
section
/-! DEFINITION. Decoding and encoding of the instruction word (30_encoding.md R90 to R109). -/

namespace Sys2Proof

/-- Why bytes are not an instruction: one name for each range of 30_encoding.md R105, and one for a byte stream that ends
before the instruction word does. -/
inductive DecodeError where
  /-- Fewer than two bytes. -/
  | truncated
  /-- 0x7000 to 0x7FFF: Class1 with opc1 = 7. -/
  | illegalClass1
  /-- 0x83C0 to 0x9FFF: Class2 with opc2 = 15 to 127. -/
  | illegalClass2
  /-- 0xA000 to 0xBFFF: IR[15:13] = 101, no class. -/
  | noClass
  /-- 0xC800 to 0xDFFF: Class3 with opc3 = 8 to 31. -/
  | illegalClass3
  /-- 0xE013 to 0xFFFF: Class4 with opc4 = 19 to 8191. -/
  | illegalClass4
deriving DecidableEq, Repr

/-! ## Fields of the instruction word (30_encoding.md R92) -/

/-- The mode a 2-bit field names (30_encoding.md R97). -/
def Mode.ofBits (b : BitVec 2) : Mode :=
  match b.toNat with
  | 0 => .modeA
  | 1 => .modeB
  | 2 => .modeC
  | _ => .modeD

/-- The 2-bit field of a mode (30_encoding.md R97). -/
def Mode.bits : Mode → BitVec 2
  | .modeA => 0#2
  | .modeB => 1#2
  | .modeC => 2#2
  | .modeD => 3#2

/-- `mas` = IR[11:10]. -/
def fieldMas (w : Word) : Mode := Mode.ofBits (w.extractLsb' 10 2)

/-- `rs` = IR[9:6]. -/
def fieldRs (w : Word) : Reg := (w.extractLsb' 6 4).toFin

/-- `mad` = IR[5:4]. -/
def fieldMad (w : Word) : Mode := Mode.ofBits (w.extractLsb' 4 2)

/-- `rd` = IR[3:0]. -/
def fieldRd (w : Word) : Reg := (w.extractLsb' 0 4).toFin

/-- `disp` = IR[7:0]. -/
def fieldDisp (w : Word) : BitVec 8 := w.extractLsb' 0 8

/-- `opc1` = IR[14:12]. -/
def fieldOpc1 (w : Word) : BitVec 3 := w.extractLsb' 12 3

/-- `opc2` = IR[12:6]. -/
def fieldOpc2 (w : Word) : BitVec 7 := w.extractLsb' 6 7

/-- `opc3` = IR[12:8]. -/
def fieldOpc3 (w : Word) : BitVec 5 := w.extractLsb' 8 5

/-- `opc4` = IR[12:0]. -/
def fieldOpc4 (w : Word) : BitVec 13 := w.extractLsb' 0 13

/-- The class a word selects, if any: IR[15] = 0 is Class1, and IR[15:13] = 100, 110, 111 are Class2, Class3 and Class4
(30_encoding.md R91). -/
def classOf (w : Word) : Option InstrClass :=
  if w.msb = false then some .class1
  else
    match (w.extractLsb' 13 2).toNat with
    | 0 => some .class2
    | 2 => some .class3
    | 3 => some .class4
    | _ => none

/-! ## Decoding -/

/-- Class1 (30_encoding.md R93, R101). -/
def decodeClass1 (w : Word) : Except DecodeError Instr :=
  match (fieldOpc1 w).toNat with
  | 0 => .ok (.mov (fieldMas w) (fieldRs w) (fieldMad w) (fieldRd w))
  | 1 => .ok (.add (fieldMas w) (fieldRs w) (fieldMad w) (fieldRd w))
  | 2 => .ok (.sub (fieldMas w) (fieldRs w) (fieldMad w) (fieldRd w))
  | 3 => .ok (.cmp (fieldMas w) (fieldRs w) (fieldMad w) (fieldRd w))
  | 4 => .ok (.and (fieldMas w) (fieldRs w) (fieldMad w) (fieldRd w))
  | 5 => .ok (.or (fieldMas w) (fieldRs w) (fieldMad w) (fieldRd w))
  | 6 => .ok (.xor (fieldMas w) (fieldRs w) (fieldMad w) (fieldRd w))
  | _ => .error .illegalClass1

/-- Class2 (30_encoding.md R94, R102). -/
def decodeClass2 (w : Word) : Except DecodeError Instr :=
  match (fieldOpc2 w).toNat with
  | 0 => .ok (.clr (fieldMad w) (fieldRd w))
  | 1 => .ok (.neg (fieldMad w) (fieldRd w))
  | 2 => .ok (.inc (fieldMad w) (fieldRd w))
  | 3 => .ok (.dec (fieldMad w) (fieldRd w))
  | 4 => .ok (.asl (fieldMad w) (fieldRd w))
  | 5 => .ok (.asr (fieldMad w) (fieldRd w))
  | 6 => .ok (.lsr (fieldMad w) (fieldRd w))
  | 7 => .ok (.rol (fieldMad w) (fieldRd w))
  | 8 => .ok (.ror (fieldMad w) (fieldRd w))
  | 9 => .ok (.rlc (fieldMad w) (fieldRd w))
  | 10 => .ok (.rrc (fieldMad w) (fieldRd w))
  | 11 => .ok (.jmp (fieldMad w) (fieldRd w))
  | 12 => .ok (.call (fieldMad w) (fieldRd w))
  | 13 => .ok (.push (fieldMad w) (fieldRd w))
  | 14 => .ok (.pop (fieldMad w) (fieldRd w))
  | _ => .error .illegalClass2

/-- Class3 (30_encoding.md R95, R103). -/
def decodeClass3 (w : Word) : Except DecodeError Instr :=
  match (fieldOpc3 w).toNat with
  | 0 => .ok (.br (fieldDisp w))
  | 1 => .ok (.bne (fieldDisp w))
  | 2 => .ok (.beq (fieldDisp w))
  | 3 => .ok (.bpl (fieldDisp w))
  | 4 => .ok (.bcs (fieldDisp w))
  | 5 => .ok (.bcc (fieldDisp w))
  | 6 => .ok (.bvs (fieldDisp w))
  | 7 => .ok (.bvc (fieldDisp w))
  | _ => .error .illegalClass3

/-- Class4 (30_encoding.md R96, R104). -/
def decodeClass4 (w : Word) : Except DecodeError Instr :=
  match (fieldOpc4 w).toNat with
  | 0 => .ok .clc
  | 1 => .ok .clv
  | 2 => .ok .clz
  | 3 => .ok .cls
  | 4 => .ok .sec
  | 5 => .ok .sev
  | 6 => .ok .sez
  | 7 => .ok .ses
  | 8 => .ok .ccc
  | 9 => .ok .scc
  | 10 => .ok .nop
  | 11 => .ok .ret
  | 12 => .ok .reti
  | 13 => .ok .halt
  | 14 => .ok .wait
  | 15 => .ok .pushpc
  | 16 => .ok .poppc
  | 17 => .ok .pushflag
  | 18 => .ok .popflag
  | _ => .error .illegalClass4

/-- The instruction a word is, or the name of the illegal range it lies in (30_encoding.md R91, R101 to R105, R108). -/
def decodeWord (w : Word) : Except DecodeError Instr :=
  match classOf w with
  | some .class1 => decodeClass1 w
  | some .class2 => decodeClass2 w
  | some .class3 => decodeClass3 w
  | some .class4 => decodeClass4 w
  | none => .error .noClass

/-- The instruction whose word the first two bytes hold, low byte first (20_memory.md R61), and the bytes after that word,
where its extension words lie (30_encoding.md R90, R99). -/
def decode : List Byte → Except DecodeError (Instr × List Byte)
  | lo :: hi :: rest =>
    match decodeWord (hi ++ lo) with
    | .ok i => .ok (i, rest)
    | .error e => .error e
  | _ => .error .truncated

/-! ## Encoding -/

/-- A Class1 word, `0ooo SSrr rrMM dddd` (30_encoding.md R93). -/
def encodeClass1 (opc1 : BitVec 3) (mas : Mode) (rs : Reg) (mad : Mode) (rd : Reg) : Word :=
  0#1 ++ opc1 ++ mas.bits ++ BitVec.ofFin (w := 4) rs ++ mad.bits ++ BitVec.ofFin (w := 4) rd

/-- A Class2 word, `100o oooo ooMM dddd` (30_encoding.md R94). -/
def encodeClass2 (opc2 : BitVec 7) (mad : Mode) (rd : Reg) : Word :=
  0b100#3 ++ opc2 ++ mad.bits ++ BitVec.ofFin (w := 4) rd

/-- A Class3 word, `110o oooo dddd dddd` (30_encoding.md R95). -/
def encodeClass3 (opc3 : BitVec 5) (disp : BitVec 8) : Word :=
  0b110#3 ++ opc3 ++ disp

/-- A Class4 word, `111o oooo oooo oooo` (30_encoding.md R96). -/
def encodeClass4 (opc4 : BitVec 13) : Word :=
  0b111#3 ++ opc4

/-- The instruction word (30_encoding.md R101 to R104). -/
def encode : Instr → Word
  | .mov mas rs mad rd => encodeClass1 0#3 mas rs mad rd
  | .add mas rs mad rd => encodeClass1 1#3 mas rs mad rd
  | .sub mas rs mad rd => encodeClass1 2#3 mas rs mad rd
  | .cmp mas rs mad rd => encodeClass1 3#3 mas rs mad rd
  | .and mas rs mad rd => encodeClass1 4#3 mas rs mad rd
  | .or mas rs mad rd => encodeClass1 5#3 mas rs mad rd
  | .xor mas rs mad rd => encodeClass1 6#3 mas rs mad rd
  | .clr mad rd => encodeClass2 0#7 mad rd
  | .neg mad rd => encodeClass2 1#7 mad rd
  | .inc mad rd => encodeClass2 2#7 mad rd
  | .dec mad rd => encodeClass2 3#7 mad rd
  | .asl mad rd => encodeClass2 4#7 mad rd
  | .asr mad rd => encodeClass2 5#7 mad rd
  | .lsr mad rd => encodeClass2 6#7 mad rd
  | .rol mad rd => encodeClass2 7#7 mad rd
  | .ror mad rd => encodeClass2 8#7 mad rd
  | .rlc mad rd => encodeClass2 9#7 mad rd
  | .rrc mad rd => encodeClass2 10#7 mad rd
  | .jmp mad rd => encodeClass2 11#7 mad rd
  | .call mad rd => encodeClass2 12#7 mad rd
  | .push mad rd => encodeClass2 13#7 mad rd
  | .pop mad rd => encodeClass2 14#7 mad rd
  | .br disp => encodeClass3 0#5 disp
  | .bne disp => encodeClass3 1#5 disp
  | .beq disp => encodeClass3 2#5 disp
  | .bpl disp => encodeClass3 3#5 disp
  | .bcs disp => encodeClass3 4#5 disp
  | .bcc disp => encodeClass3 5#5 disp
  | .bvs disp => encodeClass3 6#5 disp
  | .bvc disp => encodeClass3 7#5 disp
  | .clc => encodeClass4 0#13
  | .clv => encodeClass4 1#13
  | .clz => encodeClass4 2#13
  | .cls => encodeClass4 3#13
  | .sec => encodeClass4 4#13
  | .sev => encodeClass4 5#13
  | .sez => encodeClass4 6#13
  | .ses => encodeClass4 7#13
  | .ccc => encodeClass4 8#13
  | .scc => encodeClass4 9#13
  | .nop => encodeClass4 10#13
  | .ret => encodeClass4 11#13
  | .reti => encodeClass4 12#13
  | .halt => encodeClass4 13#13
  | .wait => encodeClass4 14#13
  | .pushpc => encodeClass4 15#13
  | .poppc => encodeClass4 16#13
  | .pushflag => encodeClass4 17#13
  | .popflag => encodeClass4 18#13

/-- The bytes of one word, low byte first (20_memory.md R62). -/
def wordBytes (w : Word) : List Byte :=
  [w.extractLsb' 0 8, w.extractLsb' 8 8]

/-- The bytes of an instruction with its extension words, in memory order (30_encoding.md R90, R99). -/
def encodeBytes (i : Instr) (ext : List Word) : List Byte :=
  wordBytes (encode i) ++ ext.flatMap wordBytes

/-! ## Lengths (30_encoding.md R90) -/

/-- The extension words an operand in this mode takes. -/
def Mode.extWords : Mode → Nat
  | .modeA => 1
  | .modeB => 0
  | .modeC => 0
  | .modeD => 1

/-- The class of an instruction (30_encoding.md R91). -/
def Instr.instrClass : Instr → InstrClass
  | .mov _ _ _ _ => .class1
  | .add _ _ _ _ => .class1
  | .sub _ _ _ _ => .class1
  | .cmp _ _ _ _ => .class1
  | .and _ _ _ _ => .class1
  | .or _ _ _ _ => .class1
  | .xor _ _ _ _ => .class1
  | .clr _ _ => .class2
  | .neg _ _ => .class2
  | .inc _ _ => .class2
  | .dec _ _ => .class2
  | .asl _ _ => .class2
  | .asr _ _ => .class2
  | .lsr _ _ => .class2
  | .rol _ _ => .class2
  | .ror _ _ => .class2
  | .rlc _ _ => .class2
  | .rrc _ _ => .class2
  | .jmp _ _ => .class2
  | .call _ _ => .class2
  | .push _ _ => .class2
  | .pop _ _ => .class2
  | .br _ => .class3
  | .bne _ => .class3
  | .beq _ => .class3
  | .bpl _ => .class3
  | .bcs _ => .class3
  | .bcc _ => .class3
  | .bvs _ => .class3
  | .bvc _ => .class3
  | .clc => .class4
  | .clv => .class4
  | .clz => .class4
  | .cls => .class4
  | .sec => .class4
  | .sev => .class4
  | .sez => .class4
  | .ses => .class4
  | .ccc => .class4
  | .scc => .class4
  | .nop => .class4
  | .ret => .class4
  | .reti => .class4
  | .halt => .class4
  | .wait => .class4
  | .pushpc => .class4
  | .poppc => .class4
  | .pushflag => .class4
  | .popflag => .class4

/-- The length of an instruction in bytes, found from its word alone (30_encoding.md R90). -/
def lengthOfWord (w : Word) : Nat :=
  match classOf w with
  | some .class1 => 2 + 2 * ((fieldMas w).extWords + (fieldMad w).extWords)
  | some .class2 => 2 + 2 * (fieldMad w).extWords
  | _ => 2

/-! ## The host's question -/

/-- The instruction the decoder reads from an instruction whose bits are the low `nbits` bits of `w` and zero above, laid
out low byte first. -/
def decodeTableWord (nbits w : Nat) : Option Instr :=
  let v := w % 2 ^ nbits
  match decode ((List.range 6).map fun k => BitVec.ofNat 8 (v / 2 ^ (8 * k))) with
  | .ok (i, _) => some i
  | .error _ => none

end Sys2Proof
end

