-- ==== Sys2Proof/Machine/State.lean ====
section
/-! DEFINITION. The state record of the core (10_state.md R36), why a run can stop, and reset. -/

namespace Sys2Proof.Machine

/-- The coarse stages of instruction processing; exactly one is current (10_state.md R32, 00_scope.md R14). -/
inductive Phase where
  | fetch | operandFetch | execute | interrupt
deriving DecidableEq, Repr

/-- Why the core halted: the four fatal conditions (60_exceptions.md R341), ImpulseOutOfRange once for each phase
(40_phase_control.md R135). `HaltReason.text` is the string that `halt_reason()` returns. -/
inductive HaltReason where
  /-- The `halt` instruction (45_class4_control.md R307). -/
  | haltEncountered
  /-- A word of 30_encoding.md R105, at Fetch impulse 3 (60_exceptions.md R342). -/
  | illegalInstruction
  /-- An impulse number that no table defines for this phase (40_phase_control.md R135). -/
  | impulseOutOfRange (phase : Phase)
  /-- Source ModeD with destination ModeB, at OperandFetch impulse 1 (60_exceptions.md R343). -/
  | unreachableAddressingCombination
deriving DecidableEq, Repr

/-- Why a step could stop with a fault. It has no constructor: every fatal condition of the spec leaves a state that the
spec gives (60_exceptions.md R341), so it is a next state with `halted` set (log entry 5), and no access and no
instruction faults (60_exceptions.md R344). Safe: nothing is cut short. -/
inductive Fault where
deriving DecidableEq, Repr

/-- Why a step or a host call could be refused. -/
inductive Refusal where
  /-- The instruction of this mnemonic has no meaning yet. Raised by an arm of `exec` that is not modelled; no arm raises
  it now. Safe: nothing can be proved of such a step. -/
  | notModelled (mnemonic : String)
  /-- `load_program` was given more than 65,536 bytes (70_reset_and_hazards.md R380). Raised by `State.loadProgram` only,
  never by a step. Safe: the spec refuses the call and leaves the state unchanged. -/
  | imageTooLong
deriving DecidableEq, Repr

/-- The bytes of memory that differ from what an unlisted address reads as, by rising address (see `Memory.wf`). -/
abbrev Memory := List Host.Cell

/-- The full state of the core (10_state.md R36). -/
structure State where
  /-- R0 to R15 (10_state.md R20). -/
  regs : Vector Word 16
  /-- PC: the byte address of the next word of the instruction stream (10_state.md R23). -/
  pc : Word
  /-- SP: the address of the word pushed last (10_state.md R24). -/
  sp : Word
  /-- FLAG: V, S, Z, C from bit 0 to bit 3 (10_state.md R25). -/
  flag : BitVec 4
  /-- IR, the instruction register (10_state.md R27). -/
  ir : Word
  /-- MDR, the memory data register (10_state.md R28). -/
  mdr : Word
  /-- ADR, the address register (10_state.md R29). -/
  adr : Word
  /-- T, the temp register (10_state.md R30). -/
  t : Word
  /-- IVR, the interrupt vector register (10_state.md R30). -/
  ivr : Word
  /-- The current phase (10_state.md R32). -/
  phase : Phase
  /-- The impulse counter: the number of the next impulse of the phase (10_state.md R33). -/
  impulse : Nat
  /-- The pending-interrupt condition (10_state.md R34). -/
  pending : Bool
  /-- The terminal condition (10_state.md R35). -/
  halted : Bool
  /-- Why the core halted; absent until it does (10_state.md R35). -/
  reason : Option HaltReason
  /-- M, the 65,536 bytes of memory (20_memory.md R60). -/
  mem : Memory
deriving DecidableEq, Repr

/-- The machine right after reset: the values of 10_state.md R38, which are those of power-up and of `load_program` with
an empty image (70_reset_and_hazards.md R380, R382). -/
def State.reset : State where
  regs := Vector.replicate 16 0#16
  pc := 0#16
  sp := 0#16
  flag := 0#4
  ir := 0#16
  mdr := 0#16
  adr := 0#16
  t := 0#16
  ivr := 0#16
  phase := .fetch
  impulse := 1
  pending := false
  halted := false
  reason := none
  mem := []

end Sys2Proof.Machine
end

