-- ==== Sys2Proof/Machine/Flags.lean ====
section
/-! DEFINITION. The ALU and the flag unit (41_alu_flags.md R170 to R185). Each operation is a pure function of the operand
buses and the old FLAG; it yields RBUS and the new FLAG (R170). -/

namespace Sys2Proof.Machine

/-! ## The FLAG nibble (10_state.md R25) -/

/-- FLAG.V, bit 0. -/
def flagV (f : BitVec 4) : Bool := f.getLsbD 0

/-- FLAG.S, bit 1. -/
def flagS (f : BitVec 4) : Bool := f.getLsbD 1

/-- FLAG.Z, bit 2. -/
def flagZ (f : BitVec 4) : Bool := f.getLsbD 2

/-- FLAG.C, bit 3. -/
def flagC (f : BitVec 4) : Bool := f.getLsbD 3

/-- The nibble of four flags, written C Z S V from bit 3 down to bit 0 (45_class4_control.md section 1). -/
def packFlags (c z s v : Bool) : BitVec 4 :=
  BitVec.ofBool c ++ BitVec.ofBool z ++ BitVec.ofBool s ++ BitVec.ofBool v

/-- `FLAG.C <- b`. -/
def setC (f : BitVec 4) (b : Bool) : BitVec 4 := packFlags b (flagZ f) (flagS f) (flagV f)

/-- `FLAG.Z <- b`. -/
def setZ (f : BitVec 4) (b : Bool) : BitVec 4 := packFlags (flagC f) b (flagS f) (flagV f)

/-- `FLAG.S <- b`. -/
def setS (f : BitVec 4) (b : Bool) : BitVec 4 := packFlags (flagC f) (flagZ f) b (flagV f)

/-- `FLAG.V <- b`. -/
def setV (f : BitVec 4) (b : Bool) : BitVec 4 := packFlags (flagC f) (flagZ f) (flagS f) b

/-- FLAG read as a 16-bit value: bits 15 to 4 are 0 (10_state.md R25). -/
def flagWord (f : BitVec 4) : Word := f.setWidth 16

/-- A 16-bit value written to FLAG: bits 3 to 0 are kept, the rest discarded (10_state.md R25). -/
def flagOfWord (w : Word) : BitVec 4 := w.extractLsb' 0 4

/-! ## The carry chain (41_alu_flags.md R171) -/

/-- One bit of the chain: `sum[i]` and the carry into the next bit. -/
def chainBit (a b : Word) (acc : Word × Bool) (i : Nat) : Word × Bool :=
  let x := a.getLsbD i
  let y := b.getLsbD i
  let c := acc.2
  (acc.1 ||| ((BitVec.ofBool (x ^^ y ^^ c)).setWidth 16 <<< i), (x && y) || (x && c) || (y && c))

/-- The reference adder: bit 0 to bit 15 with the carry seeded, giving the sum and the carry out of bit 15. -/
def addChain (a b : Word) (seed : Bool) : Word × Bool :=
  (List.range 16).foldl (chainBit a b) (0#16, seed)

/-! ## Operations (41_alu_flags.md R172 to R179, flag columns of R185) -/

/-- What an ALU operation yields: RBUS and the new FLAG (R170). -/
structure AluResult where
  /-- The result bus. -/
  rbus : Word
  /-- The FLAG register after the operation. -/
  flag : BitVec 4
deriving DecidableEq, Repr

/-- `Z <- (RBUS == 0)` and `S <- RBUS[15]` with the given C and V (R174, R175). -/
def withZS (rbus : Word) (c v : Bool) : AluResult :=
  { rbus := rbus, flag := packFlags c (rbus == 0#16) rbus.msb v }

/-- ADD (R172, R176). -/
def aluAdd (dbus sbus : Word) : AluResult :=
  let r := addChain dbus sbus false
  withZS r.1 r.2 ((~~~(sbus ^^^ dbus)).msb && (r.1.msb ^^ r.2))

/-- SUB, the minuend on DBUS (R173, R177). C is the raw carry out: 1 when there is no borrow. -/
def aluSub (dbus sbus : Word) : AluResult :=
  let r := addChain dbus (~~~sbus) true
  withZS r.1 r.2 ((sbus.msb ^^ dbus.msb) && (r.1.msb ^^ dbus.msb))

/-- PASS, AND, OR, XOR and ZERO write Z and S and keep C and V (R178, R185). -/
def aluKeepCV (rbus : Word) (f : BitVec 4) : AluResult :=
  withZS rbus (flagC f) (flagV f)

/-- Shifts and rotates write C with the bit shifted out, Z and S, and keep V (R179, R185). -/
def aluShift (rbus : Word) (out : Bool) (f : BitVec 4) : AluResult :=
  withZS rbus out (flagV f)

/-- PASS (R178). -/
def aluPass (_dbus sbus : Word) (f : BitVec 4) : AluResult := aluKeepCV sbus f

/-- AND (R178). -/
def aluAnd (dbus sbus : Word) (f : BitVec 4) : AluResult := aluKeepCV (dbus &&& sbus) f

/-- OR (R178). -/
def aluOr (dbus sbus : Word) (f : BitVec 4) : AluResult := aluKeepCV (dbus ||| sbus) f

/-- XOR (R178). -/
def aluXor (dbus sbus : Word) (f : BitVec 4) : AluResult := aluKeepCV (dbus ^^^ sbus) f

/-- ZERO (R178). -/
def aluZero (f : BitVec 4) : AluResult := aluKeepCV 0#16 f

/-- ASL: the low 15 bits, then 0; C is bit 15 (R179). -/
def aluAsl (d : Word) (f : BitVec 4) : AluResult := aluShift (d.extractLsb' 0 15 ++ 0#1) d.msb f

/-- ASR: bit 15 kept above bits 15 to 1; C is bit 0 (R179). -/
def aluAsr (d : Word) (f : BitVec 4) : AluResult := aluShift (BitVec.ofBool d.msb ++ d.extractLsb' 1 15) (d.getLsbD 0) f

/-- LSR: 0 above bits 15 to 1; C is bit 0 (R179). -/
def aluLsr (d : Word) (f : BitVec 4) : AluResult := aluShift (0#1 ++ d.extractLsb' 1 15) (d.getLsbD 0) f

/-- ROL: the low 15 bits, then bit 15; C is bit 15 (R179). -/
def aluRol (d : Word) (f : BitVec 4) : AluResult := aluShift (d.extractLsb' 0 15 ++ BitVec.ofBool d.msb) d.msb f

/-- ROR: bit 0 above bits 15 to 1; C is bit 0 (R179). -/
def aluRor (d : Word) (f : BitVec 4) : AluResult :=
  aluShift (BitVec.ofBool (d.getLsbD 0) ++ d.extractLsb' 1 15) (d.getLsbD 0) f

/-- RLC: the low 15 bits, then the old C; C is bit 15 (R179). -/
def aluRlc (d : Word) (f : BitVec 4) : AluResult := aluShift (d.extractLsb' 0 15 ++ BitVec.ofBool (flagC f)) d.msb f

/-- RRC: the old C above bits 15 to 1; C is bit 0 (R179). -/
def aluRrc (d : Word) (f : BitVec 4) : AluResult :=
  aluShift (BitVec.ofBool (flagC f) ++ d.extractLsb' 1 15) (d.getLsbD 0) f

end Sys2Proof.Machine
end

