-- ==== Sys2Proof/Machine/Memory.lean ====
section
/-! DEFINITION. The one memory primitive of each kind: reading and writing a byte of the list, and a little-endian word
at any address (20_memory.md R60 to R64). -/

namespace Sys2Proof.Machine

/-- What an address that the list does not hold reads as: the reset contents, 0x00 everywhere except the `reti` word
0xE00C at the interrupt vector (10_state.md R38, 20_memory.md R66, 70_reset_and_hazards.md R380). -/
def resetByte (a : Nat) : Byte :=
  if a = Config.intVector.toNat then 0x0C#8
  else if a = (Config.intVector + 1#16).toNat then 0xE0#8
  else 0x00#8

/-- `MemRead8` (00_scope.md R10). -/
def Memory.read : Memory → Nat → Byte
  | [], a => resetByte a
  | c :: m, a => if c.1 = a then c.2 else Memory.read m a

/-- Puts a cell before the first one with a higher address. -/
def Memory.insertCell : Memory → Host.Cell → Memory
  | [], c => [c]
  | d :: m, c => if c.1 < d.1 then c :: d :: m else d :: Memory.insertCell m c

/-- The cells at other addresses than `a`. -/
def Memory.erase : Memory → Nat → Memory
  | [], _ => []
  | c :: m, a => if c.1 = a then Memory.erase m a else c :: Memory.erase m a

/-- Writes one byte. A byte equal to what an unlisted address reads as is not listed, so that equal memories are equal
lists. -/
def Memory.write (m : Memory) (a : Nat) (v : Byte) : Memory :=
  if v = resetByte a then Memory.erase m a else Memory.insertCell (Memory.erase m a) (a, v)

/-- The canonical form of a memory: addresses strictly rising and inside the address space, and no entry equal to what an
unlisted address reads as. -/
abbrev Memory.wf (m : Memory) : Prop :=
  m.Pairwise (fun c d => c.1 < d.1) ∧ ∀ c ∈ m, c.1 < Config.memoryBytes ∧ c.2 ≠ resetByte c.1

/-- `MemRead(a, 2)` = M[a + 1], M[a], high byte first; the address wraps modulo 2^16 (20_memory.md R61, R64). -/
def Memory.readWord (m : Memory) (a : Word) : Word :=
  Memory.read m (a + 1#16).toNat ++ Memory.read m a.toNat

/-- `MemWrite(a, 2, v)`: the low byte at `a`, the high byte at `a + 1` modulo 2^16 (20_memory.md R62). -/
def Memory.writeWord (m : Memory) (a v : Word) : Memory :=
  Memory.write (Memory.write m a.toNat (v.extractLsb' 0 8)) (a + 1#16).toNat (v.extractLsb' 8 8)

/-- Writes bytes at rising addresses from `a`. -/
def Memory.writeBytes (m : Memory) (a : Nat) : List Byte → Memory
  | [] => m
  | b :: bs => Memory.writeBytes (Memory.write m a b) (a + 1) bs

/-- The memory that `load_program` leaves: zeros, then the image from address 0, then the `reti` word at the interrupt
vector, in this order (70_reset_and_hazards.md R380, 20_memory.md R68). -/
def Memory.ofImage (bytes : List Byte) : Memory :=
  let zeroed := Memory.writeWord [] Config.intVector 0x0000#16
  let image := Memory.writeBytes zeroed 0 bytes
  let low := Memory.write image Config.intVector.toNat 0x0C#8
  Memory.write low (Config.intVector + 1#16).toNat 0xE0#8

end Sys2Proof.Machine
end

