-- ==== Sys2Proof/Machine/Ops.lean ====
section
/-! DEFINITION. The named operations of the datapath and of the controller: register and memory access, phases and
impulses, halting, the end of an instruction, interrupt entry and return, and the host's calls. -/

namespace Sys2Proof.Machine

/-! ## Registers (10_state.md R20 to R30) -/

/-- `R[r]`. -/
def State.reg (s : State) (r : Reg) : Word := s.regs[r.val]

/-- `R[r] <- v`. -/
def State.setReg (s : State) (r : Reg) (v : Word) : State := { s with regs := s.regs.set r.val v }

/-- `PC <- v`. -/
def State.setPc (s : State) (v : Word) : State := { s with pc := v }

/-- `SP <- v`. -/
def State.setSp (s : State) (v : Word) : State := { s with sp := v }

/-- `FLAG <- v`. -/
def State.setFlag (s : State) (v : BitVec 4) : State := { s with flag := v }

/-- `IR <- v`. -/
def State.setIr (s : State) (v : Word) : State := { s with ir := v }

/-- `MDR <- v`. -/
def State.setMdr (s : State) (v : Word) : State := { s with mdr := v }

/-- `ADR <- v`. -/
def State.setAdr (s : State) (v : Word) : State := { s with adr := v }

/-- `T <- v`. -/
def State.setT (s : State) (v : Word) : State := { s with t := v }

/-- `IVR <- v`. -/
def State.setIvr (s : State) (v : Word) : State := { s with ivr := v }

/-- `pending <- b`. -/
def State.setPending (s : State) (b : Bool) : State := { s with pending := b }

/-! ## Memory (20_memory.md R61, R62) -/

/-- `MemRead(a, 2)`. -/
def State.memRead (s : State) (a : Word) : Word := Memory.readWord s.mem a

/-- `MemWrite(a, 2, v)`. -/
def State.memWrite (s : State) (a v : Word) : State := { s with mem := Memory.writeWord s.mem a v }

/-! ## Phases, impulses and halting (00_scope.md R11) -/

/-- `goto_phase(p)`: sets the phase, and the impulse counter to 1 (40_phase_control.md R131). -/
def State.gotoPhase (s : State) (p : Phase) : State := { s with phase := p, impulse := 1 }

/-- `set_impulse(n)`: leaves the phase alone and checks nothing (40_phase_control.md R133). -/
def State.setImpulse (s : State) (n : Nat) : State := { s with impulse := n }

/-- What `next_impulse()` does to the counter after it has read it (40_phase_control.md R132). -/
def State.tick (s : State) : State := { s with impulse := s.impulse + 1 }

/-- `halt(reason)` (60_exceptions.md R340). -/
def State.halt (s : State) (r : HaltReason) : State := { s with halted := true, reason := some r }

/-- ImpulseOutOfRange: halts with the current phase's reason and changes nothing else (40_phase_control.md R135). -/
def State.outOfRange (s : State) : State := s.halt (.impulseOutOfRange s.phase)

/-- `end_instruction()`: the phase decision at the end of an instruction (40_phase_control.md R155). -/
def State.endInstruction (s : State) : State := s.gotoPhase (if s.pending then .interrupt else .fetch)

/-- The string of a reason (60_exceptions.md R341, 40_phase_control.md R135). -/
def HaltReason.text : HaltReason → String
  | .haltEncountered => "Halt encountered."
  | .illegalInstruction => "illegal instruction"
  | .impulseOutOfRange .fetch => "impulses out of range for fetch"
  | .impulseOutOfRange .operandFetch => "impulses out of range for operand fetch"
  | .impulseOutOfRange .execute => "impulses out of range for execute"
  | .impulseOutOfRange .interrupt => "impulses out of range for interrupt"
  | .unreachableAddressingCombination => "unreachable addressing combination"

/-- The spec's label of a cause (60_exceptions.md R341). -/
def HaltReason.code : HaltReason → Nat
  | .haltEncountered => 0
  | .illegalInstruction => 1
  | .impulseOutOfRange _ => 2
  | .unreachableAddressingCombination => 3

/-! ## Running the impulses of one phase -/

/-- Runs impulses of the current phase, each as `advance()` does (read the counter, increment it, perform the line:
40_phase_control.md R130), for as long as the phase stays, nothing halts and the counter moves forward; at most `k` of
them. It stops after `wait` has rewound its counter (45_class4_control.md R308). -/
def runPhase (line : Nat → State → State) : Nat → State → State
  | 0, s => s
  | k + 1, s =>
    let s' := line s.impulse s.tick
    if s'.phase = s.phase ∧ s'.halted = false ∧ s.impulse < s'.impulse then runPhase line k s' else s'

/-! ## Taking the interrupt, and returning from it (60_exceptions.md R350 to R356) -/

/-- `InterruptStep(n)`: pushes FLAG, then PC, and goes on at IVR (60_exceptions.md R351). It leaves `pending` as it is
(R352). -/
def interruptStep (n : Nat) (s : State) : State :=
  match n with
  | 1 => s.setSp (s.sp - 2#16)
  | 2 => (s.setAdr s.sp).setMdr (flagWord s.flag)
  | 3 => s.memWrite s.adr s.mdr
  | 4 => s.setSp (s.sp - 2#16)
  | 5 => (s.setAdr s.sp).setMdr s.pc
  | 6 => s.memWrite s.adr s.mdr
  | 7 => s.setPc s.ivr
  | 8 => s.gotoPhase .fetch
  | _ => s.outOfRange

/-- The lines of `reti`: pops PC, then FLAG, and clears `pending` (60_exceptions.md R355). -/
def interruptReturnStep (n : Nat) (s : State) : State :=
  match n with
  | 1 => s.setAdr s.sp
  | 2 => (s.setMdr (s.memRead s.adr)).setSp (s.sp + 2#16)
  | 3 => (s.setPc s.mdr).setAdr s.sp
  | 4 => (s.setMdr (s.memRead s.adr)).setSp (s.sp + 2#16)
  | 5 => ((s.setFlag (flagOfWord s.mdr)).setPending false).endInstruction
  | _ => s.outOfRange

/-! ## The host's calls (60_exceptions.md R370) -/

/-- `raise_interrupt()`; it may be called at any impulse boundary, also while halted (60_exceptions.md R350). -/
def State.raiseInterrupt (s : State) : State := (s.setPending true).setIvr Config.intVector

/-- `load_program(bytes)`: reset, with the image from address 0; an image that is too long is refused
(70_reset_and_hazards.md R380). -/
def State.loadProgram (_s : State) (bytes : List Byte) : Host.Outcome State Fault Refusal :=
  if bytes.length ≤ Config.memoryBytes then .next { State.reset with mem := Memory.ofImage bytes }
  else .refused .imageTooLong

/-- `halt_reason()`: present only once halted (60_exceptions.md R370). -/
def State.haltReason (s : State) : Option String := s.reason.map HaltReason.text

/-- `memory_snapshot()`: the 65,536 bytes (20_memory.md R73). -/
def State.memorySnapshot (s : State) : List Byte := (List.range Config.memoryBytes).map (Memory.read s.mem)

end Sys2Proof.Machine
end

