-- ==== Sys2Proof/Machine/Operands.lean ====
section
/-! DEFINITION. The operand forms (30_encoding.md R97, R98): the impulses of the OperandFetch phase (40_phase_control.md
R142 to R150), the operand values at Execute (R152), the write-back (R154), and how an instruction runs its phases. -/

namespace Sys2Proof.Machine

/-! ## Source resolution (40_phase_control.md R143 to R146) -/

/-- `SourceStep(mas, n)`, impulses 1 to 5; the last line of each mode leaves the source value in T and sets the counter
to 6. A line that the mode's table does not have is ImpulseOutOfRange (R135). -/
def sourceStep (mas : Mode) (rs : Reg) (n : Nat) (s : State) : State :=
  match mas with
  | .modeA =>
    match n with
    | 1 => s.setAdr s.pc
    | 2 => (s.setMdr (s.memRead s.adr)).setPc (s.pc + 2#16)
    | 3 => (s.setT s.mdr).setImpulse 6
    | _ => s.outOfRange
  | .modeB =>
    match n with
    | 1 => (s.setT (s.reg rs)).setImpulse 6
    | _ => s.outOfRange
  | .modeC =>
    match n with
    | 1 => s.setAdr (s.reg rs)
    | 2 => s.setMdr (s.memRead s.adr)
    | 3 => (s.setT s.mdr).setImpulse 6
    | _ => s.outOfRange
  | .modeD =>
    match n with
    | 1 => s.setAdr s.pc
    | 2 => (s.setMdr (s.memRead s.adr)).setPc (s.pc + 2#16)
    | 3 => s.setAdr (s.reg rs + s.mdr)
    | 4 => s.setMdr (s.memRead s.adr)
    | 5 => (s.setT s.mdr).setImpulse 6
    | _ => s.outOfRange

/-! ## Destination resolution (40_phase_control.md R147 to R150) -/

/-- `DestStep(mad, n)`, impulses 6 to 9; the last line of each mode goes to Execute, with ADR and MDR holding the address
and the value of a memory destination. -/
def destStep (mad : Mode) (rd : Reg) (n : Nat) (s : State) : State :=
  match mad with
  | .modeA =>
    match n with
    | 6 => s.setAdr s.pc
    | 7 => ((s.setMdr (s.memRead s.adr)).setPc (s.pc + 2#16)).gotoPhase .execute
    | _ => s.outOfRange
  | .modeB =>
    match n with
    | 6 => s.gotoPhase .execute
    | _ => s.outOfRange
  | .modeC =>
    match n with
    | 6 => s.setAdr (s.reg rd)
    | 7 => (s.setMdr (s.memRead s.adr)).gotoPhase .execute
    | _ => s.outOfRange
  | .modeD =>
    match n with
    | 6 => s.setAdr s.pc
    | 7 => (s.setMdr (s.memRead s.adr)).setPc (s.pc + 2#16)
    | 8 => s.setAdr (s.reg rd + s.mdr)
    | 9 => (s.setMdr (s.memRead s.adr)).gotoPhase .execute
    | _ => s.outOfRange

/-! ## The OperandFetch phase (40_phase_control.md R142) -/

/-- `OperandFetchStep(n)` for the fields of an instruction word; `single` says that IR[15] is 1. The undefined pair of
modes halts before anything changes, and a single-operand word performs impulse 6 in the call of impulse 1. -/
def operandStep (single : Bool) (mas : Mode) (rs : Reg) (mad : Mode) (rd : Reg) (n : Nat) (s : State) : State :=
  if n = 1 ∧ single = false ∧ combinationDefined mas mad = false then s.halt .unreachableAddressingCombination
  else if n = 1 ∧ single = true then destStep mad rd 6 (s.setImpulse 7)
  else if 1 ≤ n ∧ n ≤ 5 then sourceStep mas rs n s
  else if 6 ≤ n ∧ n ≤ 9 then destStep mad rd n s
  else s.outOfRange

/-! ## Execute: operand values and write-back (40_phase_control.md R152, R154) -/

/-- `D`: the destination's value, `R[rd]` for ModeB and MDR otherwise (R152). -/
def State.destValue (s : State) (mad : Mode) (rd : Reg) : Word :=
  if mad = .modeB then s.reg rd else s.mdr

/-- `WB1(v)`: a register is written at once and the instruction ends; for memory, MDR takes the value (R154). -/
def State.writeBack1 (s : State) (mad : Mode) (rd : Reg) (v : Word) : State :=
  if mad = .modeB then (s.setReg rd v).endInstruction else s.setMdr v

/-- `WB2`: the memory write of a memory destination (R154). ModeB has no such line (R135). -/
def State.writeBack2 (s : State) (mad : Mode) : State :=
  if mad = .modeB then s.outOfRange else (s.memWrite s.adr s.mdr).endInstruction

/-- The lines of an instruction that computes a result and writes it back: impulse 1 sets FLAG and performs WB1, impulse 2
performs WB2. The operation is given D, T and the old FLAG. -/
def resultStep (mad : Mode) (rd : Reg) (op : Word → Word → BitVec 4 → AluResult) (n : Nat) (s : State) : State :=
  match n with
  | 1 =>
    let r := op (s.destValue mad rd) s.t s.flag
    (s.setFlag r.flag).writeBack1 mad rd r.rbus
  | 2 => s.writeBack2 mad
  | _ => s.outOfRange

/-! ## An instruction, from the phase decision of Fetch impulse 3 to its end (40_phase_control.md R141, R153) -/

/-- The most lines a handler has (70_reset_and_hazards.md R389). -/
def handlerLines : Nat := 5

/-- The most impulses OperandFetch takes (40_phase_control.md R151). -/
def operandFetchLines : Nat := 9

/-- Runs the handler `line` from Execute impulse 1. -/
def runHandler (line : Nat → State → State) (s : State) : State :=
  runPhase line handlerLines (s.gotoPhase .execute)

/-- A Class1 instruction: OperandFetch for both operands, then, unless that halted, the handler. -/
def runTwoOperand (mas : Mode) (rs : Reg) (mad : Mode) (rd : Reg) (line : Nat → State → State) (s : State) : State :=
  let f := runPhase (operandStep false mas rs mad rd) operandFetchLines (s.gotoPhase .operandFetch)
  if f.phase = .execute then runHandler line f else f

/-- A Class2 instruction: a register operand goes straight to Execute, any other is resolved from impulse 6 (40_phase_control.md
R141, R142). -/
def runOneOperand (mad : Mode) (rd : Reg) (line : Nat → State → State) (s : State) : State :=
  if mad = .modeB then runHandler line s
  else runHandler line (runPhase (destStep mad rd) operandFetchLines ((s.gotoPhase .operandFetch).setImpulse 6))

end Sys2Proof.Machine
end

