-- ==== Sys2Proof/Machine/Class1.lean ====
section
/-! DEFINITION. Class1, the two-operand instructions (42_class1_two_operand.md R200 to R208). For each instruction its
Execute lines and its meaning. The operation is written `op src, dst`: T is the source value S, the result goes to the
destination (R200). -/

namespace Sys2Proof.Machine

/-- The Execute lines of `mov src, dst` (42_class1_two_operand.md R201): copies the source; Z and S from the value, C and V kept. -/
def movStep (mad : Mode) (rd : Reg) : Nat → State → State :=
  resultStep mad rd aluPass

/-- `mov src, dst` (42_class1_two_operand.md R201). -/
def execMov (mas : Mode) (rs : Reg) (mad : Mode) (rd : Reg) (s : State) : Host.Outcome State Fault Refusal :=
  .next (runTwoOperand mas rs mad rd (movStep mad rd) s)

/-- The Execute lines of `add src, dst` (42_class1_two_operand.md R202): `dst <- dst + src`, all four flags. -/
def addStep (mad : Mode) (rd : Reg) : Nat → State → State :=
  resultStep mad rd fun d t _ => aluAdd d t

/-- `add src, dst` (42_class1_two_operand.md R202). -/
def execAdd (mas : Mode) (rs : Reg) (mad : Mode) (rd : Reg) (s : State) : Host.Outcome State Fault Refusal :=
  .next (runTwoOperand mas rs mad rd (addStep mad rd) s)

/-- The Execute lines of `sub src, dst` (42_class1_two_operand.md R203): `dst <- dst - src`, all four flags. -/
def subStep (mad : Mode) (rd : Reg) : Nat → State → State :=
  resultStep mad rd fun d t _ => aluSub d t

/-- `sub src, dst` (42_class1_two_operand.md R203). -/
def execSub (mas : Mode) (rs : Reg) (mad : Mode) (rd : Reg) (s : State) : Host.Outcome State Fault Refusal :=
  .next (runTwoOperand mas rs mad rd (subStep mad rd) s)

/-- The Execute lines of `cmp src, dst` (42_class1_two_operand.md R204): the flags of `dst - src`; no destination is written. -/
def cmpStep (mad : Mode) (rd : Reg) (n : Nat) (s : State) : State :=
  match n with
  | 1 => (s.setFlag (aluSub (s.destValue mad rd) s.t).flag).endInstruction
  | _ => s.outOfRange

/-- `cmp src, dst` (42_class1_two_operand.md R204). -/
def execCmp (mas : Mode) (rs : Reg) (mad : Mode) (rd : Reg) (s : State) : Host.Outcome State Fault Refusal :=
  .next (runTwoOperand mas rs mad rd (cmpStep mad rd) s)

/-- The Execute lines of `and src, dst` (42_class1_two_operand.md R205): `dst <- dst & src`; Z and S, C and V kept. -/
def andStep (mad : Mode) (rd : Reg) : Nat → State → State :=
  resultStep mad rd aluAnd

/-- `and src, dst` (42_class1_two_operand.md R205). -/
def execAnd (mas : Mode) (rs : Reg) (mad : Mode) (rd : Reg) (s : State) : Host.Outcome State Fault Refusal :=
  .next (runTwoOperand mas rs mad rd (andStep mad rd) s)

/-- The Execute lines of `or src, dst` (42_class1_two_operand.md R206): `dst <- dst | src`; Z and S, C and V kept. -/
def orStep (mad : Mode) (rd : Reg) : Nat → State → State :=
  resultStep mad rd aluOr

/-- `or src, dst` (42_class1_two_operand.md R206). -/
def execOr (mas : Mode) (rs : Reg) (mad : Mode) (rd : Reg) (s : State) : Host.Outcome State Fault Refusal :=
  .next (runTwoOperand mas rs mad rd (orStep mad rd) s)

/-- The Execute lines of `xor src, dst` (42_class1_two_operand.md R207): `dst <- dst ^ src`; Z and S, C and V kept. -/
def xorStep (mad : Mode) (rd : Reg) : Nat → State → State :=
  resultStep mad rd aluXor

/-- `xor src, dst` (42_class1_two_operand.md R207). -/
def execXor (mas : Mode) (rs : Reg) (mad : Mode) (rd : Reg) (s : State) : Host.Outcome State Fault Refusal :=
  .next (runTwoOperand mas rs mad rd (xorStep mad rd) s)

end Sys2Proof.Machine
end

