-- ==== Sys2Proof/Machine/Class2.lean ====
section
/-! DEFINITION. Class2, the one-operand instructions (43_class2_one_operand.md R230 to R246). For each instruction its
Execute lines and its meaning. -/

namespace Sys2Proof.Machine

/-- The Execute lines of `clr dst` (43_class2_one_operand.md R231): `dst <- 0`; Z = 1, S = 0, C and V kept. -/
def clrStep (mad : Mode) (rd : Reg) : Nat → State → State :=
  resultStep mad rd fun _ _ f => aluZero f

/-- `clr dst` (43_class2_one_operand.md R231). -/
def execClr (mad : Mode) (rd : Reg) (s : State) : Host.Outcome State Fault Refusal :=
  .next (runOneOperand mad rd (clrStep mad rd) s)

/-- The Execute lines of `neg dst` (43_class2_one_operand.md R232): `dst <- 0 - dst`, all four flags. -/
def negStep (mad : Mode) (rd : Reg) : Nat → State → State :=
  resultStep mad rd fun d _ _ => aluSub 0x0000#16 d

/-- `neg dst` (43_class2_one_operand.md R232). -/
def execNeg (mad : Mode) (rd : Reg) (s : State) : Host.Outcome State Fault Refusal :=
  .next (runOneOperand mad rd (negStep mad rd) s)

/-- The Execute lines of `inc dst` (43_class2_one_operand.md R233): `dst <- dst + 1`, all four flags. -/
def incStep (mad : Mode) (rd : Reg) : Nat → State → State :=
  resultStep mad rd fun d _ _ => aluAdd d 0x0001#16

/-- `inc dst` (43_class2_one_operand.md R233). -/
def execInc (mad : Mode) (rd : Reg) (s : State) : Host.Outcome State Fault Refusal :=
  .next (runOneOperand mad rd (incStep mad rd) s)

/-- The Execute lines of `dec dst` (43_class2_one_operand.md R234): `dst <- dst - 1`, all four flags. -/
def decStep (mad : Mode) (rd : Reg) : Nat → State → State :=
  resultStep mad rd fun d _ _ => aluSub d 0x0001#16

/-- `dec dst` (43_class2_one_operand.md R234). -/
def execDec (mad : Mode) (rd : Reg) (s : State) : Host.Outcome State Fault Refusal :=
  .next (runOneOperand mad rd (decStep mad rd) s)

/-- The Execute lines of `asl dst` (43_class2_one_operand.md R235): arithmetic shift left. -/
def aslStep (mad : Mode) (rd : Reg) : Nat → State → State :=
  resultStep mad rd fun d _ f => aluAsl d f

/-- `asl dst` (43_class2_one_operand.md R235). -/
def execAsl (mad : Mode) (rd : Reg) (s : State) : Host.Outcome State Fault Refusal :=
  .next (runOneOperand mad rd (aslStep mad rd) s)

/-- The Execute lines of `asr dst` (43_class2_one_operand.md R236): arithmetic shift right. -/
def asrStep (mad : Mode) (rd : Reg) : Nat → State → State :=
  resultStep mad rd fun d _ f => aluAsr d f

/-- `asr dst` (43_class2_one_operand.md R236). -/
def execAsr (mad : Mode) (rd : Reg) (s : State) : Host.Outcome State Fault Refusal :=
  .next (runOneOperand mad rd (asrStep mad rd) s)

/-- The Execute lines of `lsr dst` (43_class2_one_operand.md R237): logical shift right. -/
def lsrStep (mad : Mode) (rd : Reg) : Nat → State → State :=
  resultStep mad rd fun d _ f => aluLsr d f

/-- `lsr dst` (43_class2_one_operand.md R237). -/
def execLsr (mad : Mode) (rd : Reg) (s : State) : Host.Outcome State Fault Refusal :=
  .next (runOneOperand mad rd (lsrStep mad rd) s)

/-- The Execute lines of `rol dst` (43_class2_one_operand.md R238): rotate left. -/
def rolStep (mad : Mode) (rd : Reg) : Nat → State → State :=
  resultStep mad rd fun d _ f => aluRol d f

/-- `rol dst` (43_class2_one_operand.md R238). -/
def execRol (mad : Mode) (rd : Reg) (s : State) : Host.Outcome State Fault Refusal :=
  .next (runOneOperand mad rd (rolStep mad rd) s)

/-- The Execute lines of `ror dst` (43_class2_one_operand.md R239): rotate right. -/
def rorStep (mad : Mode) (rd : Reg) : Nat → State → State :=
  resultStep mad rd fun d _ f => aluRor d f

/-- `ror dst` (43_class2_one_operand.md R239). -/
def execRor (mad : Mode) (rd : Reg) (s : State) : Host.Outcome State Fault Refusal :=
  .next (runOneOperand mad rd (rorStep mad rd) s)

/-- The Execute lines of `rlc dst` (43_class2_one_operand.md R240): rotate left through carry. -/
def rlcStep (mad : Mode) (rd : Reg) : Nat → State → State :=
  resultStep mad rd fun d _ f => aluRlc d f

/-- `rlc dst` (43_class2_one_operand.md R240). -/
def execRlc (mad : Mode) (rd : Reg) (s : State) : Host.Outcome State Fault Refusal :=
  .next (runOneOperand mad rd (rlcStep mad rd) s)

/-- The Execute lines of `rrc dst` (43_class2_one_operand.md R241): rotate right through carry. -/
def rrcStep (mad : Mode) (rd : Reg) : Nat → State → State :=
  resultStep mad rd fun d _ f => aluRrc d f

/-- `rrc dst` (43_class2_one_operand.md R241). -/
def execRrc (mad : Mode) (rd : Reg) (s : State) : Host.Outcome State Fault Refusal :=
  .next (runOneOperand mad rd (rrcStep mad rd) s)

/-- The Execute lines of `jmp target` (43_class2_one_operand.md R242): `PC <- D`. -/
def jmpStep (mad : Mode) (rd : Reg) (n : Nat) (s : State) : State :=
  match n with
  | 1 => (s.setPc (s.destValue mad rd)).endInstruction
  | _ => s.outOfRange

/-- `jmp target` (43_class2_one_operand.md R242). -/
def execJmp (mad : Mode) (rd : Reg) (s : State) : Host.Outcome State Fault Refusal :=
  .next (runOneOperand mad rd (jmpStep mad rd) s)

/-- The Execute lines of `call target` (43_class2_one_operand.md R243): pushes PC, the address after the whole instruction, and jumps to D, kept in T. -/
def callStep (mad : Mode) (rd : Reg) (n : Nat) (s : State) : State :=
  match n with
  | 1 => (s.setT (s.destValue mad rd)).setSp (s.sp - 2#16)
  | 2 => (s.setAdr s.sp).setMdr s.pc
  | 3 => s.memWrite s.adr s.mdr
  | 4 => (s.setPc s.t).endInstruction
  | _ => s.outOfRange

/-- `call target` (43_class2_one_operand.md R243). -/
def execCall (mad : Mode) (rd : Reg) (s : State) : Host.Outcome State Fault Refusal :=
  .next (runOneOperand mad rd (callStep mad rd) s)

/-- The Execute lines of `push src` (43_class2_one_operand.md R244): pushes the operand value. -/
def pushStep (mad : Mode) (rd : Reg) (n : Nat) (s : State) : State :=
  match n with
  | 1 => (s.setT (s.destValue mad rd)).setSp (s.sp - 2#16)
  | 2 => (s.setAdr s.sp).setMdr s.t
  | 3 => (s.memWrite s.adr s.mdr).endInstruction
  | _ => s.outOfRange

/-- `push src` (43_class2_one_operand.md R244). -/
def execPush (mad : Mode) (rd : Reg) (s : State) : Host.Outcome State Fault Refusal :=
  .next (runOneOperand mad rd (pushStep mad rd) s)

/-- The Execute lines of `pop dst` (43_class2_one_operand.md R245): pops the top word into the operand location, whose address T keeps. -/
def popStep (mad : Mode) (rd : Reg) (n : Nat) (s : State) : State :=
  match n with
  | 1 => s.setT s.adr
  | 2 => s.setAdr s.sp
  | 3 => (s.setMdr (s.memRead s.adr)).setSp (s.sp + 2#16)
  | 4 => if mad = .modeB then (s.setReg rd s.mdr).endInstruction else s.setAdr s.t
  | 5 => if mad = .modeB then s.outOfRange else (s.memWrite s.adr s.mdr).endInstruction
  | _ => s.outOfRange

/-- `pop dst` (43_class2_one_operand.md R245). -/
def execPop (mad : Mode) (rd : Reg) (s : State) : Host.Outcome State Fault Refusal :=
  .next (runOneOperand mad rd (popStep mad rd) s)

end Sys2Proof.Machine
end

