-- ==== Sys2Proof/Machine/Class3.lean ====
section
/-! DEFINITION. Class3, the relative branches (44_class3_branches.md R270 to R278). -/

namespace Sys2Proof.Machine

/-- `sext_16`: bit 7 copied into bits 15 to 8 (00_scope.md R9). -/
def sext16 (d : BitVec 8) : Word := d.signExtend 16

/-- The one line of every branch: if the condition holds of FLAG, PC takes PC plus the displacement in bytes; then the
instruction ends (44_class3_branches.md R270). -/
def branchStep (cond : BitVec 4 → Bool) (disp : BitVec 8) (n : Nat) (s : State) : State :=
  match n with
  | 1 => (if cond s.flag then s.setPc (s.pc + sext16 disp) else s).endInstruction
  | _ => s.outOfRange

/-- The Execute line of `br label` (44_class3_branches.md R271): always taken. -/
def brStep (disp : BitVec 8) : Nat → State → State := branchStep (fun _ => true) disp

/-- `br label` (44_class3_branches.md R271). -/
def execBr (disp : BitVec 8) (s : State) : Host.Outcome State Fault Refusal :=
  .next (runHandler (brStep disp) s)

/-- The Execute line of `bne label` (44_class3_branches.md R272): taken when Z = 0. -/
def bneStep (disp : BitVec 8) : Nat → State → State := branchStep (fun f => !flagZ f) disp

/-- `bne label` (44_class3_branches.md R272). -/
def execBne (disp : BitVec 8) (s : State) : Host.Outcome State Fault Refusal :=
  .next (runHandler (bneStep disp) s)

/-- The Execute line of `beq label` (44_class3_branches.md R273): taken when Z = 1. -/
def beqStep (disp : BitVec 8) : Nat → State → State := branchStep flagZ disp

/-- `beq label` (44_class3_branches.md R273). -/
def execBeq (disp : BitVec 8) (s : State) : Host.Outcome State Fault Refusal :=
  .next (runHandler (beqStep disp) s)

/-- The Execute line of `bpl label` (44_class3_branches.md R274): taken when S = 0. -/
def bplStep (disp : BitVec 8) : Nat → State → State := branchStep (fun f => !flagS f) disp

/-- `bpl label` (44_class3_branches.md R274). -/
def execBpl (disp : BitVec 8) (s : State) : Host.Outcome State Fault Refusal :=
  .next (runHandler (bplStep disp) s)

/-- The Execute line of `bcs label` (44_class3_branches.md R275): taken when C = 1. -/
def bcsStep (disp : BitVec 8) : Nat → State → State := branchStep flagC disp

/-- `bcs label` (44_class3_branches.md R275). -/
def execBcs (disp : BitVec 8) (s : State) : Host.Outcome State Fault Refusal :=
  .next (runHandler (bcsStep disp) s)

/-- The Execute line of `bcc label` (44_class3_branches.md R276): taken when C = 0. -/
def bccStep (disp : BitVec 8) : Nat → State → State := branchStep (fun f => !flagC f) disp

/-- `bcc label` (44_class3_branches.md R276). -/
def execBcc (disp : BitVec 8) (s : State) : Host.Outcome State Fault Refusal :=
  .next (runHandler (bccStep disp) s)

/-- The Execute line of `bvs label` (44_class3_branches.md R277): taken when V = 1. -/
def bvsStep (disp : BitVec 8) : Nat → State → State := branchStep flagV disp

/-- `bvs label` (44_class3_branches.md R277). -/
def execBvs (disp : BitVec 8) (s : State) : Host.Outcome State Fault Refusal :=
  .next (runHandler (bvsStep disp) s)

/-- The Execute line of `bvc label` (44_class3_branches.md R278): taken when V = 0. -/
def bvcStep (disp : BitVec 8) : Nat → State → State := branchStep (fun f => !flagV f) disp

/-- `bvc label` (44_class3_branches.md R278). -/
def execBvc (disp : BitVec 8) (s : State) : Host.Outcome State Fault Refusal :=
  .next (runHandler (bvcStep disp) s)

end Sys2Proof.Machine
end

