-- ==== Sys2Proof/Machine/Class4.lean ====
section
/-! DEFINITION. Class4, the zero-operand control instructions (45_class4_control.md R290 to R309), and `reti`
(60_exceptions.md R355). -/

namespace Sys2Proof.Machine

/-- The one line of an instruction that only writes FLAG (45_class4_control.md section 1). -/
def flagStep (f : BitVec 4 → BitVec 4) (n : Nat) (s : State) : State :=
  match n with
  | 1 => (s.setFlag (f s.flag)).endInstruction
  | _ => s.outOfRange

/-- The lines that push a word which the state gives when the line that stages it runs (R303, R305). -/
def pushWordStep (value : State → Word) (n : Nat) (s : State) : State :=
  match n with
  | 1 => s.setSp (s.sp - 2#16)
  | 2 => (s.setAdr s.sp).setMdr (value s)
  | 3 => (s.memWrite s.adr s.mdr).endInstruction
  | _ => s.outOfRange

/-- The lines that pop a word and end by storing it somewhere (R302, R304, R306). -/
def popWordStep (store : Word → State → State) (n : Nat) (s : State) : State :=
  match n with
  | 1 => s.setAdr s.sp
  | 2 => (s.setMdr (s.memRead s.adr)).setSp (s.sp + 2#16)
  | 3 => (store s.mdr s).endInstruction
  | _ => s.outOfRange

/-- The Execute lines of `clc` (45_class4_control.md R291): `FLAG.C <- 0`. -/
def clcStep : Nat → State → State :=
  flagStep fun f => setC f false

/-- `clc` (45_class4_control.md R291). -/
def execClc (s : State) : Host.Outcome State Fault Refusal :=
  .next (runHandler clcStep s)

/-- The Execute lines of `clv` (45_class4_control.md R292): `FLAG.V <- 0`. -/
def clvStep : Nat → State → State :=
  flagStep fun f => setV f false

/-- `clv` (45_class4_control.md R292). -/
def execClv (s : State) : Host.Outcome State Fault Refusal :=
  .next (runHandler clvStep s)

/-- The Execute lines of `clz` (45_class4_control.md R293): `FLAG.Z <- 0`. -/
def clzStep : Nat → State → State :=
  flagStep fun f => setZ f false

/-- `clz` (45_class4_control.md R293). -/
def execClz (s : State) : Host.Outcome State Fault Refusal :=
  .next (runHandler clzStep s)

/-- The Execute lines of `cls` (45_class4_control.md R294): `FLAG.S <- 0`. -/
def clsStep : Nat → State → State :=
  flagStep fun f => setS f false

/-- `cls` (45_class4_control.md R294). -/
def execCls (s : State) : Host.Outcome State Fault Refusal :=
  .next (runHandler clsStep s)

/-- The Execute lines of `sec` (45_class4_control.md R295): `FLAG.C <- 1`. -/
def secStep : Nat → State → State :=
  flagStep fun f => setC f true

/-- `sec` (45_class4_control.md R295). -/
def execSec (s : State) : Host.Outcome State Fault Refusal :=
  .next (runHandler secStep s)

/-- The Execute lines of `sev` (45_class4_control.md R296): `FLAG.V <- 1`. -/
def sevStep : Nat → State → State :=
  flagStep fun f => setV f true

/-- `sev` (45_class4_control.md R296). -/
def execSev (s : State) : Host.Outcome State Fault Refusal :=
  .next (runHandler sevStep s)

/-- The Execute lines of `sez` (45_class4_control.md R297): `FLAG.Z <- 1`. -/
def sezStep : Nat → State → State :=
  flagStep fun f => setZ f true

/-- `sez` (45_class4_control.md R297). -/
def execSez (s : State) : Host.Outcome State Fault Refusal :=
  .next (runHandler sezStep s)

/-- The Execute lines of `ses` (45_class4_control.md R298): `FLAG.S <- 1`. -/
def sesStep : Nat → State → State :=
  flagStep fun f => setS f true

/-- `ses` (45_class4_control.md R298). -/
def execSes (s : State) : Host.Outcome State Fault Refusal :=
  .next (runHandler sesStep s)

/-- The Execute lines of `ccc` (45_class4_control.md R299): `FLAG <- 0b0000`. -/
def cccStep : Nat → State → State :=
  flagStep fun _ => 0b0000#4

/-- `ccc` (45_class4_control.md R299). -/
def execCcc (s : State) : Host.Outcome State Fault Refusal :=
  .next (runHandler cccStep s)

/-- The Execute lines of `scc` (45_class4_control.md R300): `FLAG <- 0b1111`. -/
def sccStep : Nat → State → State :=
  flagStep fun _ => 0b1111#4

/-- `scc` (45_class4_control.md R300). -/
def execScc (s : State) : Host.Outcome State Fault Refusal :=
  .next (runHandler sccStep s)

/-- The Execute line of `nop` (45_class4_control.md R301): ends the instruction and changes nothing else. -/
def nopStep (n : Nat) (s : State) : State :=
  match n with
  | 1 => s.endInstruction
  | _ => s.outOfRange

/-- `nop` (45_class4_control.md R301). -/
def execNop (s : State) : Host.Outcome State Fault Refusal :=
  .next (runHandler nopStep s)

/-- The Execute lines of `ret` (45_class4_control.md R302): pops PC. -/
def retStep : Nat → State → State :=
  popWordStep fun w s => s.setPc w

/-- `ret` (45_class4_control.md R302). -/
def execRet (s : State) : Host.Outcome State Fault Refusal :=
  .next (runHandler retStep s)

/-- The Execute lines of `reti` (60_exceptions.md R355): pops PC and FLAG and clears `pending`. -/
def retiStep : Nat → State → State :=
  interruptReturnStep

/-- `reti` (60_exceptions.md R355). -/
def execReti (s : State) : Host.Outcome State Fault Refusal :=
  .next (runHandler retiStep s)

/-- The Execute line of `halt` (45_class4_control.md R307): halts with "Halt encountered."; the instruction does not end. -/
def haltStep (n : Nat) (s : State) : State :=
  match n with
  | 1 => s.halt .haltEncountered
  | _ => s.outOfRange

/-- `halt` (45_class4_control.md R307). -/
def execHalt (s : State) : Host.Outcome State Fault Refusal :=
  .next (runHandler haltStep s)

/-- The Execute line of `wait` (45_class4_control.md R308): goes to Interrupt when an interrupt is pending, and otherwise rewinds its own counter. -/
def waitStep (n : Nat) (s : State) : State :=
  match n with
  | 1 => if s.pending then s.gotoPhase .interrupt else s.setImpulse 1
  | _ => s.outOfRange

/-- `wait` (45_class4_control.md R308). -/
def execWait (s : State) : Host.Outcome State Fault Refusal :=
  .next (runHandler waitStep s)

/-- The Execute lines of `pushpc` (45_class4_control.md R303): pushes PC. -/
def pushpcStep : Nat → State → State :=
  pushWordStep State.pc

/-- `pushpc` (45_class4_control.md R303). -/
def execPushpc (s : State) : Host.Outcome State Fault Refusal :=
  .next (runHandler pushpcStep s)

/-- The Execute lines of `poppc` (45_class4_control.md R304): pops PC. -/
def poppcStep : Nat → State → State :=
  popWordStep fun w s => s.setPc w

/-- `poppc` (45_class4_control.md R304). -/
def execPoppc (s : State) : Host.Outcome State Fault Refusal :=
  .next (runHandler poppcStep s)

/-- The Execute lines of `pushflag` (45_class4_control.md R305): pushes FLAG, zero-extended. -/
def pushflagStep : Nat → State → State :=
  pushWordStep fun s => flagWord s.flag

/-- `pushflag` (45_class4_control.md R305). -/
def execPushflag (s : State) : Host.Outcome State Fault Refusal :=
  .next (runHandler pushflagStep s)

/-- The Execute lines of `popflag` (45_class4_control.md R306): pops FLAG, keeping bits 3 to 0 of the word. -/
def popflagStep : Nat → State → State :=
  popWordStep fun w s => s.setFlag (flagOfWord w)

/-- `popflag` (45_class4_control.md R306). -/
def execPopflag (s : State) : Host.Outcome State Fault Refusal :=
  .next (runHandler popflagStep s)

end Sys2Proof.Machine
end

