-- ==== Sys2Proof/Machine/Controller.lean ====
section
/-! DEFINITION. The phase and impulse controller: the Fetch phase, OperandFetch and Execute as functions of IR, and
`advance()`, which runs exactly one impulse (40_phase_control.md R130 to R156). It is defined for every state, one built
by hand included. -/

namespace Sys2Proof.Machine

/-! ## Fetch (40_phase_control.md R139 to R141) -/

/-- The phase that follows Fetch: OperandFetch for Class1, and for Class2 when its operand is not register-direct;
otherwise Execute (40_phase_control.md R141). -/
def phaseAfterFetch (w : Word) : Phase :=
  match classOf w with
  | some .class1 => .operandFetch
  | some .class2 => if fieldMad w = .modeB then .execute else .operandFetch
  | _ => .execute

/-- `FetchStep(n)`: ADR takes PC; IR takes the word there and PC moves past it; an illegal word halts, any other chooses
the next phase (40_phase_control.md R139, R140, R141). -/
def fetchStep (n : Nat) (s : State) : State :=
  match n with
  | 1 => s.setAdr s.pc
  | 2 => (s.setIr (s.memRead s.adr)).setPc (s.pc + 2#16)
  | 3 =>
    match decodeWord s.ir with
    | .ok _ => s.gotoPhase (phaseAfterFetch s.ir)
    | .error _ => s.halt .illegalInstruction
  | _ => s.outOfRange

/-- The whole Fetch phase, from the impulse the counter names. -/
def runFetch (s : State) : State := runPhase fetchStep 3 s

/-! ## OperandFetch and Execute, as functions of IR (40_phase_control.md R142, R153) -/

/-- `OperandFetchStep(n)`: every field is the field of IR (10_state.md R27, 30_encoding.md R92). -/
def operandFetchStep (n : Nat) (s : State) : State :=
  operandStep s.ir.msb (fieldMas s.ir) (fieldRs s.ir) (fieldMad s.ir) (fieldRd s.ir) n s

/-- The handler of an instruction: its Execute lines (40_phase_control.md R153). -/
def handler (i : Instr) : Nat → State → State :=
  match i with
  | .mov _ _ mad rd => movStep mad rd
  | .add _ _ mad rd => addStep mad rd
  | .sub _ _ mad rd => subStep mad rd
  | .cmp _ _ mad rd => cmpStep mad rd
  | .and _ _ mad rd => andStep mad rd
  | .or _ _ mad rd => orStep mad rd
  | .xor _ _ mad rd => xorStep mad rd
  | .clr mad rd => clrStep mad rd
  | .neg mad rd => negStep mad rd
  | .inc mad rd => incStep mad rd
  | .dec mad rd => decStep mad rd
  | .asl mad rd => aslStep mad rd
  | .asr mad rd => asrStep mad rd
  | .lsr mad rd => lsrStep mad rd
  | .rol mad rd => rolStep mad rd
  | .ror mad rd => rorStep mad rd
  | .rlc mad rd => rlcStep mad rd
  | .rrc mad rd => rrcStep mad rd
  | .jmp mad rd => jmpStep mad rd
  | .call mad rd => callStep mad rd
  | .push mad rd => pushStep mad rd
  | .pop mad rd => popStep mad rd
  | .br disp => brStep disp
  | .bne disp => bneStep disp
  | .beq disp => beqStep disp
  | .bpl disp => bplStep disp
  | .bcs disp => bcsStep disp
  | .bcc disp => bccStep disp
  | .bvs disp => bvsStep disp
  | .bvc disp => bvcStep disp
  | .clc => clcStep
  | .clv => clvStep
  | .clz => clzStep
  | .cls => clsStep
  | .sec => secStep
  | .sev => sevStep
  | .sez => sezStep
  | .ses => sesStep
  | .ccc => cccStep
  | .scc => sccStep
  | .nop => nopStep
  | .ret => retStep
  | .reti => retiStep
  | .halt => haltStep
  | .wait => waitStep
  | .pushpc => pushpcStep
  | .poppc => poppcStep
  | .pushflag => pushflagStep
  | .popflag => popflagStep

/-- `ExecuteStep(n)`: line `n` of the handler that IR selects (40_phase_control.md R153). An illegal word selects none, so
no line is defined for it (R135; log entry 6). -/
def executeStep (n : Nat) (s : State) : State :=
  match decodeWord s.ir with
  | .ok i => handler i n s
  | .error _ => s.outOfRange

/-! ## `advance()` (40_phase_control.md R130) -/

/-- `advance()`: nothing when halted; otherwise reads and increments the counter and runs that impulse of the phase. -/
def State.advance (s : State) : State :=
  if s.halted then s
  else
    match s.phase with
    | .fetch => fetchStep s.impulse s.tick
    | .operandFetch => operandFetchStep s.impulse s.tick
    | .execute => executeStep s.impulse s.tick
    | .interrupt => interruptStep s.impulse s.tick

/-- What `advance()` returns: false exactly when the core is halted after the call (40_phase_control.md R130). -/
def State.advanceReturns (s : State) : Bool := !s.advance.halted

/-- `k` calls of `advance()`. -/
def State.advances : Nat → State → State
  | 0, s => s
  | k + 1, s => State.advances k s.advance

/-! ## Finishing what is in flight -/

/-- The impulse from `s` to `s'` ended the work in flight: the core halted, or is about to fetch or to enter the
interrupt, or `wait` rewound its counter (40_phase_control.md R155, 45_class4_control.md R308). -/
def endsWork (s s' : State) : Bool :=
  s'.halted ||
    (s'.impulse == 1 &&
      (s'.phase == .fetch || s'.phase == .interrupt || (s.phase == .execute && s'.phase == .execute)))

/-- Calls `advance()` until the instruction or the interrupt entry in flight ends, at most `k` times. -/
def State.finish : Nat → State → State
  | 0, s => s
  | k + 1, s => if endsWork s s.advance then s.advance else State.finish k s.advance

/-- The most impulses one instruction can still take, from any state: 3 of Fetch, 9 of OperandFetch and 5 of Execute. -/
def longestInstruction : Nat := 17

end Sys2Proof.Machine
end

