-- ==== Sys2Proof/Machine/Dispatch.lean ====
section
/-! DEFINITION. The meaning of every instruction: one arm for each constructor of `Instr`, in the order of the opcode table. -/

namespace Sys2Proof.Machine

/-- What instruction `i` does to a state whose fetch has read its word: its OperandFetch and Execute impulses, from the
phase decision of Fetch impulse 3 to the end of the instruction (40_phase_control.md R141, R142, R153, R155). -/
def exec (i : Instr) (s : State) : Host.Outcome State Fault Refusal :=
  match i with
  | .mov mas rs mad rd => Sys2Proof.Machine.execMov mas rs mad rd s
  | .add mas rs mad rd => Sys2Proof.Machine.execAdd mas rs mad rd s
  | .sub mas rs mad rd => Sys2Proof.Machine.execSub mas rs mad rd s
  | .cmp mas rs mad rd => Sys2Proof.Machine.execCmp mas rs mad rd s
  | .and mas rs mad rd => Sys2Proof.Machine.execAnd mas rs mad rd s
  | .or mas rs mad rd => Sys2Proof.Machine.execOr mas rs mad rd s
  | .xor mas rs mad rd => Sys2Proof.Machine.execXor mas rs mad rd s
  | .clr mad rd => Sys2Proof.Machine.execClr mad rd s
  | .neg mad rd => Sys2Proof.Machine.execNeg mad rd s
  | .inc mad rd => Sys2Proof.Machine.execInc mad rd s
  | .dec mad rd => Sys2Proof.Machine.execDec mad rd s
  | .asl mad rd => Sys2Proof.Machine.execAsl mad rd s
  | .asr mad rd => Sys2Proof.Machine.execAsr mad rd s
  | .lsr mad rd => Sys2Proof.Machine.execLsr mad rd s
  | .rol mad rd => Sys2Proof.Machine.execRol mad rd s
  | .ror mad rd => Sys2Proof.Machine.execRor mad rd s
  | .rlc mad rd => Sys2Proof.Machine.execRlc mad rd s
  | .rrc mad rd => Sys2Proof.Machine.execRrc mad rd s
  | .jmp mad rd => Sys2Proof.Machine.execJmp mad rd s
  | .call mad rd => Sys2Proof.Machine.execCall mad rd s
  | .push mad rd => Sys2Proof.Machine.execPush mad rd s
  | .pop mad rd => Sys2Proof.Machine.execPop mad rd s
  | .br disp => Sys2Proof.Machine.execBr disp s
  | .bne disp => Sys2Proof.Machine.execBne disp s
  | .beq disp => Sys2Proof.Machine.execBeq disp s
  | .bpl disp => Sys2Proof.Machine.execBpl disp s
  | .bcs disp => Sys2Proof.Machine.execBcs disp s
  | .bcc disp => Sys2Proof.Machine.execBcc disp s
  | .bvs disp => Sys2Proof.Machine.execBvs disp s
  | .bvc disp => Sys2Proof.Machine.execBvc disp s
  | .clc => Sys2Proof.Machine.execClc s
  | .clv => Sys2Proof.Machine.execClv s
  | .clz => Sys2Proof.Machine.execClz s
  | .cls => Sys2Proof.Machine.execCls s
  | .sec => Sys2Proof.Machine.execSec s
  | .sev => Sys2Proof.Machine.execSev s
  | .sez => Sys2Proof.Machine.execSez s
  | .ses => Sys2Proof.Machine.execSes s
  | .ccc => Sys2Proof.Machine.execCcc s
  | .scc => Sys2Proof.Machine.execScc s
  | .nop => Sys2Proof.Machine.execNop s
  | .ret => Sys2Proof.Machine.execRet s
  | .reti => Sys2Proof.Machine.execReti s
  | .halt => Sys2Proof.Machine.execHalt s
  | .wait => Sys2Proof.Machine.execWait s
  | .pushpc => Sys2Proof.Machine.execPushpc s
  | .poppc => Sys2Proof.Machine.execPoppc s
  | .pushflag => Sys2Proof.Machine.execPushflag s
  | .popflag => Sys2Proof.Machine.execPopflag s

end Sys2Proof.Machine
end

