-- ==== Sys2Proof/Machine/Step.lean ====
section
/-! DEFINITION. One step: a whole instruction, or what is left of the instruction or interrupt entry in flight. -/

namespace Sys2Proof.Machine

/-- One step of the machine. A halted core does not change (40_phase_control.md R130, 60_exceptions.md R340). At Fetch
impulse 1 the step is one whole instruction: the Fetch phase, which halts on an illegal word, then the instruction that IR
holds. In any other phase or impulse it calls `advance()` until the instruction or the interrupt entry in flight ends
(log entry 1). -/
def step (s : State) : Host.Outcome State Fault Refusal :=
  if s.halted then .next s
  else if s.phase = .fetch ∧ s.impulse = 1 then
    match decodeWord (runFetch s).ir with
    | .ok i => exec i (runFetch s)
    | .error _ => .next (runFetch s)
  else .next (State.finish longestInstruction s)

/-- `s` with the instruction whose bits are the low `nbits` bits of `w`, and zero above up to the longest instruction (three
words), stored where the next fetch reads it, and with the core about to fetch: it stands for the host's load of a program
(log entry 2). -/
def State.withFetchWord (s : State) (nbits w : Nat) : State :=
  let v := w % 2 ^ nbits
  let m0 := Memory.writeWord s.mem s.pc (BitVec.ofNat 16 v)
  let m1 := Memory.writeWord m0 (s.pc + 2#16) (BitVec.ofNat 16 (v / 2 ^ 16))
  let m2 := Memory.writeWord m1 (s.pc + 4#16) (BitVec.ofNat 16 (v / 2 ^ 32))
  { s with mem := m2, phase := .fetch, impulse := 1, halted := false, reason := none }

end Sys2Proof.Machine
end

