-- ==== Sys2Proof/Machine/Effects.lean ====
section
/-! DEFINITION. What operand resolution and a whole instruction leave, in closed form: the effective address and value of
each mode (30_encoding.md R98), the state when Execute begins (40_phase_control.md R152), and the counts of lines and
impulses (70_reset_and_hazards.md R389). The step function does not use these; the statements compare it with them. -/

namespace Sys2Proof.Machine

/-! ## Operands (30_encoding.md R98) -/

/-- The effective address of an operand in mode `m` with register `r`, when `p` is the PC at which its extension word
would be consumed. ModeB has none (30_encoding.md R98). -/
def State.effectiveAddress (s : State) (p : Word) (m : Mode) (r : Reg) : Option Word :=
  match m with
  | .modeA => some p
  | .modeB => none
  | .modeC => some (s.reg r)
  | .modeD => some (s.reg r + s.memRead p)

/-- The value of an operand: the word at its effective address, or the register (30_encoding.md R98). -/
def State.operandValue (s : State) (p : Word) (m : Mode) (r : Reg) : Word :=
  match s.effectiveAddress p m r with
  | some a => s.memRead a
  | none => s.reg r

/-- PC after an operand in mode `m` whose extension word would be at `p` (10_state.md R23, 30_encoding.md R90). -/
def pcAfterOperand (p : Word) (m : Mode) : Word :=
  match m with
  | .modeA => p + 2#16
  | .modeB => p
  | .modeC => p
  | .modeD => p + 2#16

/-- The operand's part of the state: ADR and MDR take the address and the value of a memory operand, and PC moves past the
extension word (40_phase_control.md R143 to R150). -/
def State.afterOperand (s : State) (m : Mode) (r : Reg) : State :=
  { s with
    adr := (s.effectiveAddress s.pc m r).getD s.adr
    mdr := ((s.effectiveAddress s.pc m r).map s.memRead).getD s.mdr
    pc := pcAfterOperand s.pc m }

/-- A Class1 instruction's state when Execute begins: the source, whose value is in T, then the destination
(40_phase_control.md R142, R152). -/
def State.afterTwoOperands (s : State) (mas : Mode) (rs : Reg) (mad : Mode) (rd : Reg) : State :=
  ({ s.afterOperand mas rs with t := s.operandValue s.pc mas rs }).afterOperand mad rd

/-! ## The end of an instruction -/

/-- The instruction is over: the next phase is Interrupt if an interrupt is pending and Fetch if not, at impulse 1
(40_phase_control.md R155). -/
def State.ended (s : State) : State :=
  { s with phase := if s.pending then .interrupt else .fetch, impulse := 1 }

/-- The end of an instruction that writes the result `v` and the flags `f` to its destination: `R[rd]` for ModeB, and
otherwise the word at ADR, by way of MDR (40_phase_control.md R154). -/
def State.resultWritten (s : State) (mad : Mode) (rd : Reg) (v : Word) (f : BitVec 4) : State :=
  if mad = .modeB then State.ended { s with flag := f, regs := s.regs.set rd.val v }
  else State.ended { s with flag := f, mdr := v, mem := Memory.writeWord s.mem s.adr v }

/-! ## Flags by wide arithmetic (41_alu_flags.md R174 to R180) -/

/-- The flags of `d + v`: C when the sum does not fit 16 unsigned bits, V when the signed sum is out of range (41_alu_flags.md
R172, R176, R180). -/
def addFlags (d v : Word) : BitVec 4 :=
  packFlags (decide (65536 ≤ d.toNat + v.toNat)) (d + v == 0#16) (d + v).msb
    (decide (d.toInt + v.toInt < -32768 ∨ 32767 < d.toInt + v.toInt))

/-- The flags of `d - v`: C when there is no borrow, V when the signed difference is out of range (41_alu_flags.md R173,
R177, R180). -/
def subFlags (d v : Word) : BitVec 4 :=
  packFlags (decide (v.toNat ≤ d.toNat)) (d - v == 0#16) (d - v).msb
    (decide (d.toInt - v.toInt < -32768 ∨ 32767 < d.toInt - v.toInt))

/-- The flags of an operation that writes Z and S and keeps C and V (41_alu_flags.md R185). -/
def keepCVFlags (r : Word) (f : BitVec 4) : BitVec 4 :=
  packFlags (flagC f) (r == 0#16) r.msb (flagV f)

/-- The flags of a shift or rotate: C is the bit shifted out, V is kept (41_alu_flags.md R179, R185). -/
def shiftFlags (r : Word) (out : Bool) (f : BitVec 4) : BitVec 4 :=
  packFlags out (r == 0#16) r.msb (flagV f)

/-! ## Counts (40_phase_control.md R151, 42 R208, 43 R246, 44 R270, 45 R309) -/

/-- The impulses of source resolution (40_phase_control.md R151). -/
def sourceLines : Mode → Nat
  | .modeA => 3
  | .modeB => 1
  | .modeC => 3
  | .modeD => 5

/-- The impulses of destination resolution (40_phase_control.md R151). -/
def destLines : Mode → Nat
  | .modeA => 2
  | .modeB => 1
  | .modeC => 2
  | .modeD => 4

/-- The Execute lines of an instruction that writes a result: 1 for a register and 2 for memory. -/
def resultLines (mad : Mode) : Nat := if mad = .modeB then 1 else 2

/-- The Execute lines of an instruction (42_class1_two_operand.md R208, 43_class2_one_operand.md R246, 44_class3_branches.md
R270, 45_class4_control.md R309). -/
def executeLines : Instr → Nat
  | .mov _ _ mad _ => resultLines mad
  | .add _ _ mad _ => resultLines mad
  | .sub _ _ mad _ => resultLines mad
  | .cmp _ _ _ _ => 1
  | .and _ _ mad _ => resultLines mad
  | .or _ _ mad _ => resultLines mad
  | .xor _ _ mad _ => resultLines mad
  | .clr mad _ => resultLines mad
  | .neg mad _ => resultLines mad
  | .inc mad _ => resultLines mad
  | .dec mad _ => resultLines mad
  | .asl mad _ => resultLines mad
  | .asr mad _ => resultLines mad
  | .lsr mad _ => resultLines mad
  | .rol mad _ => resultLines mad
  | .ror mad _ => resultLines mad
  | .rlc mad _ => resultLines mad
  | .rrc mad _ => resultLines mad
  | .jmp _ _ => 1
  | .call _ _ => 4
  | .push _ _ => 3
  | .pop mad _ => if mad = .modeB then 4 else 5
  | .br _ => 1
  | .bne _ => 1
  | .beq _ => 1
  | .bpl _ => 1
  | .bcs _ => 1
  | .bcc _ => 1
  | .bvs _ => 1
  | .bvc _ => 1
  | .clc => 1
  | .clv => 1
  | .clz => 1
  | .cls => 1
  | .sec => 1
  | .sev => 1
  | .sez => 1
  | .ses => 1
  | .ccc => 1
  | .scc => 1
  | .nop => 1
  | .ret => 3
  | .reti => 5
  | .halt => 1
  | .wait => 1
  | .pushpc => 3
  | .poppc => 3
  | .pushflag => 3
  | .popflag => 3

/-- The OperandFetch impulses of an instruction (40_phase_control.md R151); the undefined pair of modes halts in one. -/
def operandFetchImpulses (i : Instr) : Nat :=
  match i with
  | .mov mas _ mad _ => if combinationDefined mas mad then sourceLines mas + destLines mad else 1
  | .add mas _ mad _ => if combinationDefined mas mad then sourceLines mas + destLines mad else 1
  | .sub mas _ mad _ => if combinationDefined mas mad then sourceLines mas + destLines mad else 1
  | .cmp mas _ mad _ => if combinationDefined mas mad then sourceLines mas + destLines mad else 1
  | .and mas _ mad _ => if combinationDefined mas mad then sourceLines mas + destLines mad else 1
  | .or mas _ mad _ => if combinationDefined mas mad then sourceLines mas + destLines mad else 1
  | .xor mas _ mad _ => if combinationDefined mas mad then sourceLines mas + destLines mad else 1
  | .clr mad _ => if mad = .modeB then 0 else destLines mad
  | .neg mad _ => if mad = .modeB then 0 else destLines mad
  | .inc mad _ => if mad = .modeB then 0 else destLines mad
  | .dec mad _ => if mad = .modeB then 0 else destLines mad
  | .asl mad _ => if mad = .modeB then 0 else destLines mad
  | .asr mad _ => if mad = .modeB then 0 else destLines mad
  | .lsr mad _ => if mad = .modeB then 0 else destLines mad
  | .rol mad _ => if mad = .modeB then 0 else destLines mad
  | .ror mad _ => if mad = .modeB then 0 else destLines mad
  | .rlc mad _ => if mad = .modeB then 0 else destLines mad
  | .rrc mad _ => if mad = .modeB then 0 else destLines mad
  | .jmp mad _ => if mad = .modeB then 0 else destLines mad
  | .call mad _ => if mad = .modeB then 0 else destLines mad
  | .push mad _ => if mad = .modeB then 0 else destLines mad
  | .pop mad _ => if mad = .modeB then 0 else destLines mad
  | .br _ => 0
  | .bne _ => 0
  | .beq _ => 0
  | .bpl _ => 0
  | .bcs _ => 0
  | .bcc _ => 0
  | .bvs _ => 0
  | .bvc _ => 0
  | .clc => 0
  | .clv => 0
  | .clz => 0
  | .cls => 0
  | .sec => 0
  | .sev => 0
  | .sez => 0
  | .ses => 0
  | .ccc => 0
  | .scc => 0
  | .nop => 0
  | .ret => 0
  | .reti => 0
  | .halt => 0
  | .wait => 0
  | .pushpc => 0
  | .poppc => 0
  | .pushflag => 0
  | .popflag => 0

/-- The impulses of a whole instruction, Fetch included, as the table of 70_reset_and_hazards.md R389 gives them; for `wait`
one Execute impulse. -/
def instrImpulses (i : Instr) : Nat :=
  3 + operandFetchImpulses i + (if i.wellFormed then executeLines i else 0)

end Sys2Proof.Machine
end

