-- ==== Sys2Proof/Safety.lean ====
section
/-! DEFINITION. What a safe run is: the impulse numbers that the tables define, and the invariant of every state that a
run from reset reaches (40_phase_control.md R135, 10_state.md R25 to R35). -/

namespace Sys2Proof.Machine

/-- OperandFetch defines an action for impulse `n` of this word: impulse 1 always (it resolves the source, skips to the
destination or halts), the source lines of `mas` and the destination lines of `mad` (40_phase_control.md R142 to R150). -/
def operandImpulseDefined (w : Word) (n : Nat) : Bool :=
  n == 1 || (decide (2 ≤ n) && decide (n ≤ sourceLines (fieldMas w))) ||
    (decide (6 ≤ n) && decide (n ≤ 5 + destLines (fieldMad w)))

/-- The tables define an action for the impulse that the next `advance()` runs (40_phase_control.md R135). -/
def State.impulseDefined (s : State) : Bool :=
  match s.phase with
  | .fetch => decide (1 ≤ s.impulse) && decide (s.impulse ≤ 3)
  | .operandFetch => operandImpulseDefined s.ir s.impulse
  | .execute =>
    match decodeWord s.ir with
    | .ok i => decide (1 ≤ s.impulse) && decide (s.impulse ≤ executeLines i)
    | .error _ => false
  | .interrupt => decide (1 ≤ s.impulse) && decide (s.impulse ≤ 8)

/-- The controller is in order: a core that has not halted is at an impulse that the tables define, and past Fetch it holds a
legal word in IR. -/
def State.controlOk (s : State) : Prop :=
  s.halted = false →
    s.impulseDefined = true ∧ (s.phase = .operandFetch → ∃ i, decodeWord s.ir = .ok i)

/-- The invariant of the states that a run from reset reaches: memory is in canonical form, the counter is from 1 to 10
(10_state.md R33), a reason is there exactly when the core has halted (10_state.md R35), it is never ImpulseOutOfRange
(40_phase_control.md R135), and the controller is in order. -/
structure State.Inv (s : State) : Prop where
  /-- Memory is in canonical form. -/
  memory : Memory.wf s.mem
  /-- The counter is at least 1. -/
  impulsePos : 1 ≤ s.impulse
  /-- The counter is at most 10. -/
  impulseLe : s.impulse ≤ 10
  /-- There is a reason exactly when the core has halted. -/
  reasonIff : s.reason.isSome = s.halted
  /-- The reason is not ImpulseOutOfRange. -/
  inRange : ∀ p, s.reason ≠ some (.impulseOutOfRange p)
  /-- The controller is in order. -/
  control : s.controlOk

/-- No instruction or interrupt entry is in flight: the core is about to fetch. -/
def State.atBoundary (s : State) : Prop :=
  s.halted = false ∧ s.phase = .fetch ∧ s.impulse = 1

end Sys2Proof.Machine
end

