-- ==== Sys2Proof/Certificates/Slice0/Obligations.lean ====
section
/-! DEFINITION. The statements for the provers. Each docstring names the rule or the sentence of spec/ that the statement
formalises, and, where the spec marks it as its own decision or derivation, says so. -/

open Sys2Proof Sys2Proof.Machine

namespace Sys2Proof.Machine

/-! ## Families of instructions that the statements name -/

/-- The state that a Class1 instruction leaves when it writes `(r d v).1` to its destination and `(r d v).2` to FLAG, where
`d` and `v` are the values of the destination and of the source (40_phase_control.md R152, R154). -/
def State.twoOperandResult (s : State) (mas : Mode) (rs : Reg) (mad : Mode) (rd : Reg)
    (r : Word → Word → Word × BitVec 4) : State :=
  let v := s.operandValue s.pc mas rs
  let d := s.operandValue (pcAfterOperand s.pc mas) mad rd
  (s.afterTwoOperands mas rs mad rd).resultWritten mad rd (r d v).1 (r d v).2

/-- The state that a Class2 instruction leaves when it writes `(r d).1` to its operand and `(r d).2` to FLAG, where `d` is the
operand's value (40_phase_control.md R152, R154). -/
def State.oneOperandResult (s : State) (mad : Mode) (rd : Reg) (r : Word → Word × BitVec 4) : State :=
  let d := s.operandValue s.pc mad rd
  (s.afterOperand mad rd).resultWritten mad rd (r d).1 (r d).2

/-- The instructions that write FLAG (10_state.md R26, 41_alu_flags.md R185). -/
def writesFlag : Instr → Bool
  | .jmp _ _ | .call _ _ | .push _ _ | .pop _ _ => false
  | .br _ | .bne _ | .beq _ | .bpl _ | .bcs _ | .bcc _ | .bvs _ | .bvc _ => false
  | .nop | .ret | .halt | .wait | .pushpc | .poppc | .pushflag => false
  | _ => true

/-- The instructions that read FLAG (10_state.md R26). -/
def readsFlag : Instr → Bool
  | .bne _ | .beq _ | .bpl _ | .bcs _ | .bcc _ | .bvs _ | .bvc _ => true
  | .rlc _ _ | .rrc _ _ | .pushflag => true
  | _ => false

/-- The instructions that use SP (10_state.md R24). -/
def usesSp : Instr → Bool
  | .call _ _ | .push _ _ | .pop _ _ => true
  | .ret | .reti | .pushpc | .poppc | .pushflag | .popflag => true
  | _ => false

/-- The general register an instruction writes: its destination, when that is ModeB (10_state.md R21). -/
def registerWritten : Instr → Option Reg
  | .mov _ _ .modeB rd | .add _ _ .modeB rd | .sub _ _ .modeB rd => some rd
  | .and _ _ .modeB rd | .or _ _ .modeB rd | .xor _ _ .modeB rd => some rd
  | .clr .modeB rd | .neg .modeB rd | .inc .modeB rd | .dec .modeB rd => some rd
  | .asl .modeB rd | .asr .modeB rd | .lsr .modeB rd => some rd
  | .rol .modeB rd | .ror .modeB rd | .rlc .modeB rd | .rrc .modeB rd => some rd
  | .pop .modeB rd => some rd
  | _ => none

/-- The address an instruction started in `s` stores a word to, if it stores one: the effective address of its destination
(30_encoding.md R98), or the new top of the stack (10_state.md R24). -/
def storeAddress (s : State) : Instr → Option Word
  | .mov mas _ mad rd | .add mas _ mad rd | .sub mas _ mad rd => s.effectiveAddress (pcAfterOperand s.pc mas) mad rd
  | .and mas _ mad rd | .or mas _ mad rd | .xor mas _ mad rd => s.effectiveAddress (pcAfterOperand s.pc mas) mad rd
  | .clr mad rd | .neg mad rd | .inc mad rd | .dec mad rd => s.effectiveAddress s.pc mad rd
  | .asl mad rd | .asr mad rd | .lsr mad rd => s.effectiveAddress s.pc mad rd
  | .rol mad rd | .ror mad rd | .rlc mad rd | .rrc mad rd => s.effectiveAddress s.pc mad rd
  | .pop mad rd => s.effectiveAddress s.pc mad rd
  | .call _ _ | .push _ _ | .pushpc | .pushflag => some (s.sp - 2#16)
  | _ => none

/-- The Class2 instructions that transfer control (43_class2_one_operand.md section 3). -/
def transfersControl : Instr → Bool
  | .jmp _ _ | .call _ _ => true
  | _ => false

/-- What every instruction leaves alone, from `s` to `t`: the general registers but a ModeB destination, SP but for the
instructions that use it, FLAG but for those that write it, IR, IVR, `pending` but for `reti`, and every byte of memory but
the two of the word it stores. -/
def frameKept (i : Instr) (s t : State) : Prop :=
  (∀ q, registerWritten i ≠ some q → t.reg q = s.reg q) ∧
  (usesSp i = false → t.sp = s.sp) ∧
  (writesFlag i = false → t.flag = s.flag) ∧
  t.ir = s.ir ∧ t.ivr = s.ivr ∧ (i ≠ .reti → t.pending = s.pending) ∧
  (storeAddress s i = none → ∀ a, Memory.read t.mem a = Memory.read s.mem a) ∧
  (∀ x, storeAddress s i = some x →
    ∀ a, a ≠ x.toNat → a ≠ (x + 1#16).toNat → Memory.read t.mem a = Memory.read s.mem a)

end Sys2Proof.Machine

/-! ## Encoding -/

/-- For every instruction, with every mode, register and displacement, and any extension words after it, decoding its bytes gives that instruction and leaves exactly the bytes of its extension words. The field layout is the decision D1 to D4 of the spec. -/
def Obligations.DecodeOfEncodeIsTheInstruction : Prop :=
  ∀ (i : Instr) (ext : List Word),
    decodeWord (encode i) = .ok i ∧ decode (encodeBytes i ext) = .ok (i, ext.flatMap wordBytes)

/-- A word that decodes to an instruction is exactly the encoding of it: no bit of a legal word is dropped. The field layout is the decision D1 to D4 of the spec. -/
def Obligations.EncodeOfDecodedWordIsTheWord : Prop :=
  ∀ (w : Word) (i : Instr), decodeWord w = .ok i → encode i = w

/-- A word fails to decode exactly when it lies in 0x7000 to 0x7FFF, 0x83C0 to 0x9FFF, 0xA000 to 0xBFFF, 0xC800 to 0xDFFF or 0xE013 to 0xFFFF, and the error names the range; every other word is an instruction. The ranges rest on the decisions D2 and D3 of the spec. -/
def Obligations.IllegalWordsAreTheFiveRanges : Prop :=
  ∀ w : Word,
    (decodeWord w = .error .illegalClass1 ↔ 0x7000 ≤ w.toNat ∧ w.toNat ≤ 0x7FFF) ∧
    (decodeWord w = .error .illegalClass2 ↔ 0x83C0 ≤ w.toNat ∧ w.toNat ≤ 0x9FFF) ∧
    (decodeWord w = .error .noClass ↔ 0xA000 ≤ w.toNat ∧ w.toNat ≤ 0xBFFF) ∧
    (decodeWord w = .error .illegalClass3 ↔ 0xC800 ≤ w.toNat ∧ w.toNat ≤ 0xDFFF) ∧
    (decodeWord w = .error .illegalClass4 ↔ 0xE013 ≤ w.toNat) ∧
    decodeWord w ≠ .error .truncated

/-- The words 0x0010, 0x1C62, 0x8372, 0xC1FA and 0xE00C, written from the bit patterns of the spec, decode to mov #, R0; add d(R1), (R2); push d(R2); bne -6; reti. -/
def Obligations.SampleWordsDecode : Prop :=
  decodeWord 0b0000000000010000#16 = .ok (.mov .modeA 0 .modeB 0) ∧
  decodeWord 0b0001110001100010#16 = .ok (.add .modeD 1 .modeC 2) ∧
  decodeWord 0b1000001101110010#16 = .ok (.push .modeD 2) ∧
  decodeWord 0b1100000111111010#16 = .ok (.bne 0xFA#8) ∧
  decodeWord 0b1110000000001100#16 = .ok .reti

/-- The length of an instruction is 2 bytes plus 2 for each ModeA or ModeD operand, found from its word alone, and every Class1 instruction with a defined pair of modes and every Class2 instruction but jmp and call leaves PC past the whole instruction. -/
def Obligations.InstructionLengthMovesPc : Prop :=
  (∀ (o : BitVec 3) (mas : Mode) (rs : Reg) (mad : Mode) (rd : Reg),
    lengthOfWord (encodeClass1 o mas rs mad rd) = 2 + 2 * (mas.extWords + mad.extWords)) ∧
  (∀ (o : BitVec 7) (mad : Mode) (rd : Reg), lengthOfWord (encodeClass2 o mad rd) = 2 + 2 * mad.extWords) ∧
  (∀ (o : BitVec 5) (disp : BitVec 8), lengthOfWord (encodeClass3 o disp) = 2) ∧
  (∀ o : BitVec 13, lengthOfWord (encodeClass4 o) = 2) ∧
  (∀ m : Mode, m.extWords = if m = .modeA ∨ m = .modeD then 1 else 0) ∧
  ∀ (i : Instr) (s t : State), s.atBoundary → decodeWord (s.memRead s.pc) = .ok i → i.wellFormed = true →
    (i.instrClass = .class1 ∨ i.instrClass = .class2 ∧ transfersControl i = false) →
    step s = .next t → t.pc = s.pc + BitVec.ofNat 16 (lengthOfWord (s.memRead s.pc))

/-! ## Memory -/

/-- MemWrite(A, 2, v) writes v[7:0] to A and v[15:8] to A + 1 modulo 65536 and no other byte, and every impulse either leaves memory alone or performs MemWrite(ADR, 2, MDR) with the ADR and MDR it finds. -/
def Obligations.WordWriteStoresTwoBytesAtAdr : Prop :=
  (∀ (s : State) (a v : Word) (b : Nat),
    Memory.read (s.memWrite a v).mem b =
      if b = a.toNat then v.extractLsb' 0 8
      else if b = (a.toNat + 1) % 65536 then v.extractLsb' 8 8
      else Memory.read s.mem b) ∧
  ∀ s : State, s.advance.mem = s.mem ∨ s.advance.mem = (s.memWrite s.adr s.mdr).mem

/-- The word at any address A, odd or even, is M[(A + 1) mod 65536] above M[A]. The wrap is the decision D15 and the lack of an alignment rule the decision D16 of the spec. -/
def Obligations.WordReadIsLittleEndianAtAnyAddress : Prop :=
  ∀ (s : State) (a : Word),
    (s.memRead a).toNat =
      256 * (Memory.read s.mem ((a.toNat + 1) % 65536)).toNat + (Memory.read s.mem a.toNat).toNat

/-! ## The ALU (41_alu_flags.md) -/

/-- For all operands the sum of the carry chain seeded by 0 is DBUS + SBUS modulo 2^16, and its carry out is 1 exactly when the unsigned sum exceeds 0xFFFF; ADD puts the sum on RBUS and that carry in C. -/
def Obligations.AdditionChainIsWideAddition : Prop :=
  ∀ d v : Word,
    addChain d v false = (d + v, decide (65536 ≤ d.toNat + v.toNat)) ∧
    (aluAdd d v).rbus = (addChain d v false).1 ∧ flagC (aluAdd d v).flag = (addChain d v false).2

/-- For all operands the carry chain of DBUS and the complement of SBUS seeded by 1 gives DBUS - SBUS modulo 2^16, and its carry out is 1 exactly when unsigned(DBUS) >= unsigned(SBUS). C as the raw carry is the decision D10 of the spec. -/
def Obligations.SubtractionChainIsWideSubtraction : Prop :=
  ∀ d v : Word,
    addChain d (~~~v) true = (d - v, decide (v.toNat ≤ d.toNat)) ∧
    (aluSub d v).rbus = d - v ∧ flagC (aluSub d v).flag = decide (v.toNat ≤ d.toNat)

/-- For all operands the whole FLAG after ADD and SUB is the one of wide arithmetic: C as for the chain, Z for a zero result, S for bit 15, and V exactly when the signed result lies outside -32768..32767. The equivalence is derived in the spec, the formula of V for SUB is its decision D11. -/
def Obligations.AluFlagsAreWideArithmetic : Prop :=
  ∀ d v : Word, (aluAdd d v).flag = addFlags d v ∧ (aluSub d v).flag = subFlags d v

/-! ## The controller -/

/-- halt(reason) sets halted and reason and nothing else; once a core is halted, any number of advance() calls leaves the whole state as it is and each returns false, and a step does too. A model choice (log entry 5): halting is a next state, not a fault. -/
def Obligations.HaltedCoreNeverChanges : Prop :=
  (∀ (s : State) (r : HaltReason), s.halt r = { s with halted := true, reason := some r }) ∧
  ∀ (s : State) (k : Nat), s.halted = true →
    State.advances k s = s ∧ s.advanceReturns = false ∧ step s = .next s

/-- For every state, advance() returns false if and only if the core is halted after the call, and a core that was halted before it stays halted. -/
def Obligations.AdvanceReturnsFalseIffHalted : Prop :=
  ∀ s : State, (s.advanceReturns = false ↔ s.advance.halted = true) ∧ (s.halted = true → s.advanceReturns = false)

/-- At Fetch impulse 1 advance() copies PC to ADR; at Fetch impulse 2 it reads the word at ADR into IR and adds 2 to PC modulo 2^16; nothing else but the counter changes. -/
def Obligations.FetchReadsTheWordAtPc : Prop :=
  ∀ s : State, s.halted = false → s.phase = .fetch →
    (s.impulse = 1 → s.advance = { s with adr := s.pc, impulse := 2 }) ∧
    (s.impulse = 2 → s.advance = { s with ir := s.memRead s.adr, pc := s.pc + 2#16, impulse := 3 })

/-- At Fetch impulse 3 an illegal word halts with "illegal instruction"; a word with bit 15 clear goes to OperandFetch; a Class2 word (100 in the top bits) goes to OperandFetch exactly when its mode bits are not 01; every other word goes to Execute. Decisions D7 and D23 of the spec. -/
def Obligations.FetchDecidesTheNextPhase : Prop :=
  ∀ s : State, s.halted = false → s.phase = .fetch → s.impulse = 3 →
    ((∃ e, decodeWord s.ir = .error e) →
      s.advance = { s with impulse := 4, halted := true, reason := some .illegalInstruction }) ∧
    ((∃ i, decodeWord s.ir = .ok i) →
      s.advance = { s with
        impulse := 1
        phase :=
          if s.ir.getLsbD 15 = false then .operandFetch
          else if s.ir.extractLsb' 13 3 = 0b100#3 ∧ s.ir.extractLsb' 4 2 ≠ 0b01#2 then .operandFetch
          else .execute })

/-- end_instruction() goes to Interrupt when an interrupt is pending and to Fetch when none is; every instruction with a defined behaviour but halt and wait ends so, at impulse 1 and not halted; halt halts; wait goes to Interrupt or stays in Execute; and reti, which clears pending first, always goes to Fetch. -/
def Obligations.EveryInstructionEndsByThePhaseDecision : Prop :=
  (∀ s : State, s.endInstruction = if s.pending then s.gotoPhase .interrupt else s.gotoPhase .fetch) ∧
  (∀ (i : Instr) (s : State), s.halted = false → i.wellFormed = true → i ≠ .halt → i ≠ .wait →
    ∃ t, exec i s = .next t ∧ t.phase = (if t.pending then .interrupt else .fetch) ∧ t.impulse = 1 ∧ t.halted = false) ∧
  (∀ s : State, s.halted = false →
    (∃ t, exec .halt s = .next t ∧ t.halted = true) ∧
    (∃ t, exec .wait s = .next t ∧ t.phase = if s.pending then .interrupt else .execute) ∧
    (∃ t, exec .reti s = .next t ∧ t.phase = .fetch))

/-- For every state that has not halted, if the tables define no action for its phase, IR and impulse number, advance() increments the counter, halts with the reason of the phase and changes nothing else; if they do, advance() does not halt with such a reason. Decisions D22 and D24 of the spec; for a hand-built IR see log entries 6 and 7. -/
def Obligations.UndefinedImpulseHaltsOutOfRange : Prop :=
  ∀ s : State, s.halted = false →
    (s.impulseDefined = false →
      s.advance = { s with impulse := s.impulse + 1, halted := true, reason := some (.impulseOutOfRange s.phase) }) ∧
    (s.impulseDefined = true → s.reason = none → ∀ p, s.advance.reason ≠ some (.impulseOutOfRange p))

/-- Each of the seven Class1 instructions with source ModeD and destination ModeB halts in OperandFetch with "unreachable addressing combination", with nothing else changed. Decision D21 of the spec; 90_conflicts.md C3. -/
def Obligations.UndefinedModePairHaltsUnchanged : Prop :=
  ∀ (rs rd : Reg) (s : State) (i : Instr), s.halted = false →
    i ∈ [Instr.mov .modeD rs .modeB rd, .add .modeD rs .modeB rd, .sub .modeD rs .modeB rd, .cmp .modeD rs .modeB rd,
      .and .modeD rs .modeB rd, .or .modeD rs .modeB rd, .xor .modeD rs .modeB rd] →
    exec i s = .next { s with
      phase := .operandFetch, impulse := 2, halted := true, reason := some .unreachableAddressingCombination }

/-- A step whose word is illegal halts with "illegal instruction": IR holds the word, ADR its address, PC the address + 2, the phase is Fetch, the third impulse was the last one run, and nothing else changed: no operand is resolved and no Execute impulse runs. -/
def Obligations.IllegalWordStopsAtFetchImpulseThree : Prop :=
  ∀ s : State, s.atBoundary → (∃ e, decodeWord (s.memRead s.pc) = .error e) →
    step s = .next { s with
      adr := s.pc, ir := s.memRead s.pc, pc := s.pc + 2#16, impulse := 4
      halted := true, reason := some .illegalInstruction } ∧
    step s = .next (State.advances 3 s)

/-- When the two bytes at PC decode to an instruction, a step of a core at Fetch impulse 1 is exec of that instruction on the state that Fetch leaves: ADR at the word, IR the word, PC past it, and the phase that Fetch chose at impulse 1. One step is one whole instruction: the model choice of log entry 1. -/
def Obligations.StepRunsTheDecodedInstruction : Prop :=
  ∀ (s : State) (i : Instr), s.atBoundary →
    decode [Memory.read s.mem s.pc.toNat, Memory.read s.mem (s.pc + 1#16).toNat] = .ok (i, []) →
    step s = exec i { s with
      adr := s.pc, ir := s.memRead s.pc, pc := s.pc + 2#16
      phase := phaseAfterFetch (s.memRead s.pc), impulse := 1 }

/-- From Fetch impulse 1, a step that runs instruction i reaches exactly the state of 3 Fetch impulses plus the OperandFetch and Execute impulses that the table gives for i (one Execute impulse for wait; 4 in all for an undefined pair of modes), each an advance() call on IR and the counter; and a step from Interrupt impulse 1 is 8 of them. The table is derived in the spec; that a step is a whole instruction is the model choice of log entry 1. -/
def Obligations.StepIsTheTabledNumberOfAdvances : Prop :=
  (∀ (s : State) (i : Instr), s.atBoundary → decodeWord (s.memRead s.pc) = .ok i →
    step s = .next (State.advances (instrImpulses i) s)) ∧
  ∀ s : State, s.halted = false → s.phase = .interrupt → s.impulse = 1 → step s = .next (State.advances 8 s)

/-- For every state that meets the invariant (memory in canonical form, counter from 1 to 10, a reason exactly when halted, never ImpulseOutOfRange, controller at a defined impulse with a legal IR), so does the state after advance() and after raise_interrupt(). The spec marks the defined impulse sets as its decision D24; the canonical form is the model's own representation of memory. -/
def Obligations.AdvanceKeepsTheInvariant : Prop :=
  ∀ s : State, s.Inv → s.advance.Inv ∧ s.raiseInterrupt.Inv

/-- For every state that meets the invariant, a step answers a next state and that state meets the invariant too: no step from it is ever out of range. -/
def Obligations.StepKeepsTheInvariant : Prop :=
  ∀ s : State, s.Inv → ∃ t, step s = .next t ∧ t.Inv

/-- The reset state meets the invariant, and so does the state after load_program with any image that it accepts. -/
def Obligations.ResetAndLoadMeetTheInvariant : Prop :=
  State.reset.Inv ∧ ∀ (s t : State) (bytes : List Byte), s.loadProgram bytes = .next t → t.Inv

/-- raise_interrupt() before an impulse of Fetch or OperandFetch gives what raising it after that impulse gives; before an Execute impulse it changes no register, flag or memory byte that the impulse leaves, and no halt, and unless the impulse ends the instruction (or is wait) the phase and counter are the same too. The spec derives this from its rules. -/
def Obligations.RaisedInterruptLeavesTheInstructionAlone : Prop :=
  (∀ s : State, s.phase = .fetch ∨ s.phase = .operandFetch → s.raiseInterrupt.advance = s.advance.raiseInterrupt) ∧
  ∀ s : State, s.phase = .execute →
    let a := s.advance
    let b := s.raiseInterrupt.advance
    (b.regs = a.regs ∧ b.pc = a.pc ∧ b.sp = a.sp ∧ b.flag = a.flag ∧ b.ir = a.ir ∧ b.mdr = a.mdr ∧ b.adr = a.adr ∧
      b.t = a.t ∧ b.halted = a.halted ∧ b.reason = a.reason ∧ b.mem = a.mem) ∧
    (s.ir ≠ encode .wait → a.phase = .execute → b = a.raiseInterrupt)

/-! ## Interrupts -/

/-- raise_interrupt() sets pending and IVR to 0x03E8 and changes nothing else, whether or not the core is halted or an interrupt is already pending; raising it twice is raising it once. Decisions D18, D20 and D36 of the spec. -/
def Obligations.RaiseInterruptSetsPendingAndVector : Prop :=
  ∀ s : State,
    s.raiseInterrupt = { s with pending := true, ivr := 0x03E8#16 } ∧
    s.raiseInterrupt.raiseInterrupt = s.raiseInterrupt

/-- The step from Interrupt impulse 1 answers the state with FLAG, zero-extended, stored at the old SP - 2 and PC at the old SP - 4, SP at the old SP - 4, PC at IVR, Fetch impulse 1, and everything else, pending and FLAG included, as it was apart from ADR and MDR. Decisions D8 and D20 of the spec. -/
def Obligations.InterruptEntrySavesFlagAndPc : Prop :=
  ∀ s : State, s.halted = false → s.phase = .interrupt → s.impulse = 1 →
    ∃ t, step s = .next t ∧
      t = { s with
        mem := t.mem, sp := s.sp - 4#16, adr := s.sp - 4#16, mdr := s.pc, pc := s.ivr, phase := .fetch, impulse := 1 } ∧
      t.memRead (s.sp - 2#16) = s.flag.setWidth 16 ∧ t.memRead (s.sp - 4#16) = s.pc ∧
      ∀ a : Nat, a ≠ (s.sp - 4#16).toNat → a ≠ (s.sp - 3#16).toNat → a ≠ (s.sp - 2#16).toNat →
        a ≠ (s.sp - 1#16).toNat → Memory.read t.mem a = Memory.read s.mem a

/-- reti takes PC from the word at SP and FLAG from the low 4 bits of the word at SP + 2, moves SP up by 4, clears pending and goes to Fetch; ADR and MDR are left at the second word; nothing else changes. Decision D8 of the spec. -/
def Obligations.RetiResult : Prop :=
  ∀ s : State, s.halted = false →
    exec .reti s = .next { s with
      pc := s.memRead s.sp
      flag := (s.memRead (s.sp + 2#16)).setWidth 4
      sp := s.sp + 4#16
      adr := s.sp + 2#16
      mdr := s.memRead (s.sp + 2#16)
      pending := false, phase := .fetch, impulse := 1 }

/-- If, when the interrupt has been entered, the word at the vector is reti, then the entry step and the next step lead to Fetch with PC, SP, FLAG, every general register, T and IVR bit-identical to before the entry, pending cleared, the core not halted, and every byte of memory but the four below the old SP unchanged. The spec derives this from the entry and return sequences. -/
def Obligations.InterruptThenRetiRestoresTheProgram : Prop :=
  ∀ s t : State, s.halted = false → s.phase = .interrupt → s.impulse = 1 →
    step s = .next t → t.memRead t.pc = 0xE00C#16 →
    ∃ u, step t = .next u ∧ u.pc = s.pc ∧ u.sp = s.sp ∧ u.flag = s.flag ∧ u.regs = s.regs ∧ u.t = s.t ∧ u.ivr = s.ivr ∧
      u.pending = false ∧ u.halted = false ∧ u.phase = .fetch ∧ u.impulse = 1 ∧
      ∀ a : Nat, a ≠ (s.sp - 4#16).toNat → a ≠ (s.sp - 3#16).toNat → a ≠ (s.sp - 2#16).toNat →
        a ≠ (s.sp - 1#16).toNat → Memory.read u.mem a = Memory.read s.mem a

/-- Every advance() leaves pending as it was unless it runs Execute impulse 5 of reti, which clears it; no advance() changes IVR, and none clears halted. -/
def Obligations.OnlyRetiClearsPending : Prop :=
  ∀ s : State,
    (s.halted = false ∧ s.phase = .execute ∧ s.impulse = 5 ∧ s.ir = 0xE00C#16 → s.advance.pending = false) ∧
    (¬ (s.halted = false ∧ s.phase = .execute ∧ s.impulse = 5 ∧ s.ir = 0xE00C#16) → s.advance.pending = s.pending) ∧
    s.advance.ivr = s.ivr ∧ (s.halted = true → s.advance.halted = true)

/-- An instruction that is not in the list of FLAG writers leaves FLAG as it was. An instruction that is not in the list of FLAG readers leaves the same state, FLAG aside, whatever FLAG was. -/
def Obligations.FlagIsWrittenAndReadOnlyAsListed : Prop :=
  ∀ (i : Instr) (s : State) (f : BitVec 4), s.halted = false →
    ∃ t u, exec i s = .next t ∧ exec i { s with flag := f } = .next u ∧
      (writesFlag i = false → t.flag = s.flag) ∧
      (readsFlag i = false → u = { t with flag := u.flag })

/-! ## Frames -/

/-- For mov, add, sub, cmp, and, or and xor in every pair of modes, exec answers a next state in which these are as before: the general registers but a ModeB destination, SP but for the instructions that use it, FLAG but for those that write it, IR, IVR, pending but for reti, and every byte of memory but the two of the word stored at the address that storeAddress computes; also C and V for mov, and, or and xor. -/
def Obligations.Class1Frame : Prop :=
  ∀ (i : Instr) (s : State), s.halted = false → i.instrClass = .class1 →
    ∃ t, exec i s = .next t ∧ frameKept i s t ∧
      (∀ mas rs mad rd, i ∈ [Instr.mov mas rs mad rd, .and mas rs mad rd, .or mas rs mad rd, .xor mas rs mad rd] →
        flagC t.flag = flagC s.flag ∧ flagV t.flag = flagV s.flag)

/-- For the fifteen Class2 instructions in every mode, exec answers a next state in which these are as before: the general registers but a ModeB destination, SP but for the instructions that use it, FLAG but for those that write it, IR, IVR, pending but for reti, and every byte of memory but the two of the word stored at the address that storeAddress computes; also C and V for clr, and V for the shifts and rotates. -/
def Obligations.Class2Frame : Prop :=
  ∀ (i : Instr) (s : State), s.halted = false → i.instrClass = .class2 →
    ∃ t, exec i s = .next t ∧ frameKept i s t ∧
      (∀ mad rd, i = .clr mad rd → flagC t.flag = flagC s.flag ∧ flagV t.flag = flagV s.flag) ∧
      (∀ mad rd, i ∈ [Instr.asl mad rd, .asr mad rd, .lsr mad rd, .rol mad rd, .ror mad rd, .rlc mad rd, .rrc mad rd] →
        flagV t.flag = flagV s.flag)

/-- For the eight branches and the nineteen Class4 instructions, exec answers a next state in which these are as before: the general registers but a ModeB destination, SP but for the instructions that use it, FLAG but for those that write it, IR, IVR, pending but for reti, and every byte of memory but the two of the word stored at the address that storeAddress computes; also T. -/
def Obligations.Class3AndClass4Frame : Prop :=
  ∀ (i : Instr) (s : State), s.halted = false → i.instrClass = .class3 ∨ i.instrClass = .class4 →
    ∃ t, exec i s = .next t ∧ frameKept i s t ∧ t.t = s.t

/-! ## Class1 results -/

/-- For every defined pair of modes, add answers the state in which both operands are resolved, the destination holds the sum modulo 2^16 and FLAG is C, Z, S and V of that sum by wide arithmetic, and the instruction is over; nothing else changed. Impulse by impulse: Execute impulse 1 writes FLAG and a register destination, or MDR, and for memory impulse 2 writes MDR at ADR. -/
def Obligations.AddResult : Prop :=
  ∀ (mas : Mode) (rs : Reg) (mad : Mode) (rd : Reg) (s : State), s.halted = false → combinationDefined mas mad = true →
    exec (.add mas rs mad rd) s =
      .next (s.twoOperandResult mas rs mad rd fun d v => (d + v, addFlags d v)) ∧
    (s.phase = .execute → s.ir = encode (.add mas rs mad rd) →
      let d := s.destValue mad rd
      (mad = .modeB → s.impulse = 1 →
        s.advance = State.ended { s with flag := addFlags d s.t, regs := s.regs.set rd.val (d + s.t) }) ∧
      (mad ≠ .modeB → s.impulse = 1 →
        s.advance = { s with flag := addFlags d s.t, mdr := d + s.t, impulse := 2 }) ∧
      (mad ≠ .modeB → s.impulse = 2 →
        s.advance = State.ended { s with mem := Memory.writeWord s.mem s.adr s.mdr }))

/-- For every defined pair of modes, sub answers the state in which the destination holds dst - src modulo 2^16 and FLAG is that of the subtraction; cmp answers the state in which only FLAG is written, ADR, MDR and T keeping what operand fetch left. The operand order and the borrow sense are the decisions D5, D10 and D11 of the spec. -/
def Obligations.SubAndCmpResult : Prop :=
  ∀ (mas : Mode) (rs : Reg) (mad : Mode) (rd : Reg) (s : State), s.halted = false → combinationDefined mas mad = true →
    exec (.sub mas rs mad rd) s =
      .next (s.twoOperandResult mas rs mad rd fun d v => (d - v, subFlags d v)) ∧
    exec (.cmp mas rs mad rd) s =
      .next (State.ended { s.afterTwoOperands mas rs mad rd with
        flag := subFlags (s.operandValue (pcAfterOperand s.pc mas) mad rd) (s.operandValue s.pc mas rs) })

/-- For every defined pair of modes, mov, and, or and xor answer the state in which the destination holds the source, or the bitwise AND, OR or XOR of destination and source, Z and S are those of it and C and V are kept. The flag columns are the decision D12 of the spec. -/
def Obligations.MoveAndLogicResults : Prop :=
  ∀ (mas : Mode) (rs : Reg) (mad : Mode) (rd : Reg) (s : State), s.halted = false → combinationDefined mas mad = true →
    exec (.mov mas rs mad rd) s =
      .next (s.twoOperandResult mas rs mad rd fun _ v => (v, keepCVFlags v s.flag)) ∧
    exec (.and mas rs mad rd) s =
      .next (s.twoOperandResult mas rs mad rd fun d v => (d &&& v, keepCVFlags (d &&& v) s.flag)) ∧
    exec (.or mas rs mad rd) s =
      .next (s.twoOperandResult mas rs mad rd fun d v => (d ||| v, keepCVFlags (d ||| v) s.flag)) ∧
    exec (.xor mas rs mad rd) s =
      .next (s.twoOperandResult mas rs mad rd fun d v => (d ^^^ v, keepCVFlags (d ^^^ v) s.flag))

/-! ## Class2 results -/

/-- In every mode, clr answers the state whose operand is 0 with Z = 1, S = 0 and C, V kept; neg, inc and dec the state whose operand is 0 - dst, dst + 1 and dst - 1 modulo 2^16 with all four flags of that subtraction or addition. The flag columns are the decision D12 of the spec. -/
def Obligations.UnaryArithmeticResults : Prop :=
  ∀ (mad : Mode) (rd : Reg) (s : State), s.halted = false →
    exec (.clr mad rd) s =
      .next (s.oneOperandResult mad rd fun _ => (0#16, packFlags (flagC s.flag) true false (flagV s.flag))) ∧
    exec (.neg mad rd) s = .next (s.oneOperandResult mad rd fun d => (0#16 - d, subFlags 0#16 d)) ∧
    exec (.inc mad rd) s = .next (s.oneOperandResult mad rd fun d => (d + 1#16, addFlags d 1#16)) ∧
    exec (.dec mad rd) s = .next (s.oneOperandResult mad rd fun d => (d - 1#16, subFlags d 1#16))

/-- In every mode, asl, asr, lsr, rol, ror, rlc and rrc answer the state whose operand is shifted or rotated by one bit, arithmetically, logically, around, or through C, with C the bit that left, Z and S of the result and V kept. The bit patterns are from general knowledge and the flag columns are the decision D12 of the spec (log entry 8). -/
def Obligations.ShiftAndRotateResults : Prop :=
  ∀ (mad : Mode) (rd : Reg) (s : State), s.halted = false →
    exec (.asl mad rd) s =
      .next (s.oneOperandResult mad rd fun d => (d <<< 1, shiftFlags (d <<< 1) (d.getLsbD 15) s.flag)) ∧
    exec (.asr mad rd) s =
      .next (s.oneOperandResult mad rd fun d => (d.sshiftRight 1, shiftFlags (d.sshiftRight 1) (d.getLsbD 0) s.flag)) ∧
    exec (.lsr mad rd) s =
      .next (s.oneOperandResult mad rd fun d => (d >>> 1, shiftFlags (d >>> 1) (d.getLsbD 0) s.flag)) ∧
    exec (.rol mad rd) s =
      .next (s.oneOperandResult mad rd fun d => (d.rotateLeft 1, shiftFlags (d.rotateLeft 1) (d.getLsbD 15) s.flag)) ∧
    exec (.ror mad rd) s =
      .next (s.oneOperandResult mad rd fun d => (d.rotateRight 1, shiftFlags (d.rotateRight 1) (d.getLsbD 0) s.flag)) ∧
    exec (.rlc mad rd) s =
      .next (s.oneOperandResult mad rd fun d =>
        let r := (d <<< 1) ||| (BitVec.ofBool (flagC s.flag)).setWidth 16
        (r, shiftFlags r (d.getLsbD 15) s.flag)) ∧
    exec (.rrc mad rd) s =
      .next (s.oneOperandResult mad rd fun d =>
        let r := (d >>> 1) ||| ((BitVec.ofBool (flagC s.flag)).setWidth 16 <<< 15)
        (r, shiftFlags r (d.getLsbD 0) s.flag))

/-- In every mode, jmp answers the state in which the operand is resolved and PC is its value: the extension word, R[rd], the word at R[rd] or the word at R[rd] plus the extension word. Decision D9 of the spec. -/
def Obligations.JmpResult : Prop :=
  ∀ (mad : Mode) (rd : Reg) (s : State), s.halted = false →
    exec (.jmp mad rd) s =
      .next (State.ended { s.afterOperand mad rd with pc := s.operandValue s.pc mad rd })

/-- In every mode, call answers the state in which the word at the old SP - 2 is the PC after the whole instruction, SP is there, PC is the operand value, T is that value too, and ADR and MDR are those of the push; nothing else changed. Decision D9 of the spec. -/
def Obligations.CallResult : Prop :=
  ∀ (mad : Mode) (rd : Reg) (s : State), s.halted = false →
    exec (.call mad rd) s =
      .next (State.ended { s with
        pc := s.operandValue s.pc mad rd
        t := s.operandValue s.pc mad rd
        sp := s.sp - 2#16
        adr := s.sp - 2#16
        mdr := pcAfterOperand s.pc mad
        mem := Memory.writeWord s.mem (s.sp - 2#16) (pcAfterOperand s.pc mad) })

/-- In every mode, push answers the state in which SP is 2 lower, the word there is the operand value, which is also in T and MDR, ADR is SP and PC is past the instruction; nothing else changed. Decision D17 of the spec. -/
def Obligations.PushResult : Prop :=
  ∀ (mad : Mode) (rd : Reg) (s : State), s.halted = false →
    exec (.push mad rd) s =
      .next (State.ended { s with
        pc := pcAfterOperand s.pc mad
        t := s.operandValue s.pc mad rd
        sp := s.sp - 2#16
        adr := s.sp - 2#16
        mdr := s.operandValue s.pc mad rd
        mem := Memory.writeWord s.mem (s.sp - 2#16) (s.operandValue s.pc mad rd) })

/-- pop to a register answers the state in which R[rd] is the word at the old SP; pop to memory the state in which the word at the effective address, fixed before SP changes, is; SP is 2 higher, MDR is the word, T is the ADR of operand fetch, and ADR is the place written, or the old SP for a register. Decision D17 of the spec. -/
def Obligations.PopResult : Prop :=
  (∀ (rd : Reg) (s : State), s.halted = false →
    exec (.pop .modeB rd) s =
      .next (State.ended { s with
        regs := s.regs.set rd.val (s.memRead s.sp)
        t := s.adr, adr := s.sp, mdr := s.memRead s.sp, sp := s.sp + 2#16 })) ∧
  ∀ (mad : Mode) (rd : Reg) (s : State) (x : Word), s.halted = false → s.effectiveAddress s.pc mad rd = some x →
    exec (.pop mad rd) s =
      .next (State.ended { s with
        pc := pcAfterOperand s.pc mad
        t := x, adr := x, mdr := s.memRead s.sp, sp := s.sp + 2#16
        mem := Memory.writeWord s.mem x (s.memRead s.sp) })

/-! ## Class3 results -/

/-- br always, and bne, beq, bpl, bcs, bcc, bvs and bvc when Z = 0, Z = 1, S = 0, C = 1, C = 0, V = 1 and V = 0, answer the state in which PC is PC + signed(disp) modulo 2^16, and otherwise the state in which PC is as it was; the instruction is over and nothing else changed. Conditions, base and scale are the decisions D13 and D15 of the spec. -/
def Obligations.BranchResults : Prop :=
  ∀ (disp : BitVec 8) (s : State), s.halted = false →
    let branch := fun taken : Bool =>
      State.ended { s with pc := if taken then BitVec.ofInt 16 (s.pc.toNat + disp.toInt) else s.pc }
    exec (.br disp) s = .next (branch true) ∧
    exec (.bne disp) s = .next (branch (!flagZ s.flag)) ∧
    exec (.beq disp) s = .next (branch (flagZ s.flag)) ∧
    exec (.bpl disp) s = .next (branch (!flagS s.flag)) ∧
    exec (.bcs disp) s = .next (branch (flagC s.flag)) ∧
    exec (.bcc disp) s = .next (branch (!flagC s.flag)) ∧
    exec (.bvs disp) s = .next (branch (flagV s.flag)) ∧
    exec (.bvc disp) s = .next (branch (!flagV s.flag))

/-! ## Class4 results -/

/-- clc, clv, clz and cls clear bit 3, 0, 2 and 1 of FLAG, sec, sev, sez and ses set it, ccc clears all four and scc sets all four; the instruction is over in one Execute impulse and nothing else changed. -/
def Obligations.FlagInstructionResults : Prop :=
  ∀ s : State, s.halted = false →
    ∀ p ∈ [(Instr.clc, 0xE000#16, s.flag &&& 0b0111#4), (.clv, 0xE001#16, s.flag &&& 0b1110#4),
        (.clz, 0xE002#16, s.flag &&& 0b1011#4), (.cls, 0xE003#16, s.flag &&& 0b1101#4),
        (.sec, 0xE004#16, s.flag ||| 0b1000#4), (.sev, 0xE005#16, s.flag ||| 0b0001#4),
        (.sez, 0xE006#16, s.flag ||| 0b0100#4), (.ses, 0xE007#16, s.flag ||| 0b0010#4),
        (.ccc, 0xE008#16, 0b0000#4), (.scc, 0xE009#16, 0b1111#4)],
      encode p.1 = p.2.1 ∧
      exec p.1 s = .next (State.ended { s with flag := p.2.2 }) ∧
      (s.phase = .execute → s.impulse = 1 → s.ir = p.2.1 → s.advance = State.ended { s with flag := p.2.2 })

/-- nop answers the state in which only the phase decision has been made, taking a pending interrupt; a step that fetches it takes 4 impulses in all. -/
def Obligations.NopResult : Prop :=
  (∀ s : State, s.halted = false → exec .nop s = .next (State.ended s)) ∧
  ∀ s : State, s.atBoundary → s.memRead s.pc = 0xE00A#16 → step s = .next (State.advances 4 s)

/-- ret and poppc answer the state in which PC is the word at the old SP, SP is 2 higher, ADR is the old SP and MDR the word; the instruction is over and nothing else changed. Decision D17 of the spec. -/
def Obligations.RetAndPoppcResult : Prop :=
  ∀ s : State, s.halted = false →
    let t := State.ended { s with pc := s.memRead s.sp, sp := s.sp + 2#16, adr := s.sp, mdr := s.memRead s.sp }
    exec .ret s = .next t ∧ exec .poppc s = .next t

/-- pushpc and pushflag answer the state in which SP is 2 lower and the word there, also in MDR, is PC or FLAG with bits 15 to 4 clear; ADR is SP; the instruction is over and nothing else changed. Decision D17 of the spec. -/
def Obligations.PushpcAndPushflagResult : Prop :=
  ∀ s : State, s.halted = false →
    let pushed := fun w : Word => State.ended { s with
      sp := s.sp - 2#16, adr := s.sp - 2#16, mdr := w, mem := Memory.writeWord s.mem (s.sp - 2#16) w }
    exec .pushpc s = .next (pushed s.pc) ∧ exec .pushflag s = .next (pushed (BitVec.ofNat 16 s.flag.toNat))

/-- popflag answers the state in which FLAG is the low 4 bits of the word at the old SP, SP is 2 higher, ADR is the old SP and MDR the word; the instruction is over and nothing else changed. Decisions D17 and D38 of the spec. -/
def Obligations.PopflagResult : Prop :=
  ∀ s : State, s.halted = false →
    exec .popflag s = .next (State.ended { s with
      flag := BitVec.ofNat 4 (s.memRead s.sp).toNat
      sp := s.sp + 2#16, adr := s.sp, mdr := s.memRead s.sp })

/-- halt halts at Execute impulse 1 with the reason "Halt encountered." and changes nothing else; fetched at PC, it leaves PC at its address + 2, the advance() that runs it returns false, and after it no number of calls changes anything, so a pending interrupt is never taken. -/
def Obligations.HaltResult : Prop :=
  (∀ s : State, s.halted = false →
    exec .halt s = .next { s with
      phase := .execute, impulse := 2, halted := true, reason := some .haltEncountered }) ∧
  HaltReason.text .haltEncountered = "Halt encountered." ∧
  ∀ s : State, s.atBoundary → s.memRead s.pc = 0xE00D#16 →
    ∃ t, step s = .next t ∧ t = State.advances 4 s ∧ (State.advances 3 s).advanceReturns = false ∧
      t.pc = s.pc + 2#16 ∧ t.haltReason = some "Halt encountered." ∧
      ∀ k, State.advances k t = t ∧ (State.advances k t).advanceReturns = false

/-- wait goes to Interrupt impulse 1 when an interrupt is pending and otherwise stays at Execute impulse 1, changing nothing else. A core that waits there with nothing pending is left unchanged by any number of advance() calls, each returning true, and by steps; once raise_interrupt() is called, the next call enters Interrupt. The representation is the decision D26 of the spec. -/
def Obligations.WaitResult : Prop :=
  (∀ s : State, s.halted = false →
    exec .wait s = .next { s with phase := if s.pending then .interrupt else .execute, impulse := 1 }) ∧
  ∀ s : State, s.halted = false → s.phase = .execute → s.impulse = 1 → s.ir = 0xE00E#16 → s.pending = false →
    (∀ k, State.advances k s = s) ∧ s.advanceReturns = true ∧ step s = .next s ∧
    s.raiseInterrupt.advance = { s.raiseInterrupt with phase := .interrupt, impulse := 1 }

/-! ## Programs of two instructions, and the host -/

/-- If a call in any mode runs at PC with nothing pending and the word at its target, after the push, is ret, then the two steps lead to Fetch with PC at the address after the whole call, SP, FLAG and every general register as before the call. The spec derives this from the two rules. -/
def Obligations.CallThenRetReturnsAfterTheCall : Prop :=
  ∀ (mad : Mode) (rd : Reg) (s t : State), s.atBoundary → s.pending = false →
    decodeWord (s.memRead s.pc) = .ok (.call mad rd) → step s = .next t → t.memRead t.pc = 0xE00B#16 →
    ∃ u, step t = .next u ∧ u.pc = s.pc + BitVec.ofNat 16 (2 + 2 * mad.extWords) ∧ u.sp = s.sp ∧ u.flag = s.flag ∧
      u.regs = s.regs ∧ u.phase = .fetch ∧ u.impulse = 1 ∧ u.halted = false

/-- load_program with at most 65,536 bytes answers a state equal to reset but for memory, whose bytes are the image from address 0 and zeros after it, except 0x0C at 1000 and 0xE0 at 1001 whatever the image holds; a longer image is refused. The empty image gives the power-up state. Decisions D19, D29 and D30 of the spec. -/
def Obligations.LoadProgramResetsAndLoads : Prop :=
  (∀ (s : State) (bytes : List Byte), bytes.length ≤ 65536 →
    ∃ t, s.loadProgram bytes = .next t ∧ t = { State.reset with mem := t.mem } ∧
      ∀ a, a < 65536 → Memory.read t.mem a =
        if a = 1000 then 0x0C#8 else if a = 1001 then 0xE0#8 else bytes.getD a 0#8) ∧
  (∀ (s : State) (bytes : List Byte), 65536 < bytes.length → s.loadProgram bytes = .refused .imageTooLong) ∧
  ∀ s : State, s.loadProgram [] = .next State.reset

/-- At reset every general register, PC, SP, FLAG, IR, MDR, ADR, T and IVR are 0, the phase is Fetch at impulse 1, nothing is pending, the core is not halted and has no reason, and memory reads 0x0C at 1000, 0xE0 at 1001 and 0 everywhere else. pending at reset is the decision D29 of the spec. -/
def Obligations.ResetValues : Prop :=
  (∀ r : Reg, State.reset.reg r = 0#16) ∧ State.reset.pc = 0#16 ∧ State.reset.sp = 0#16 ∧ State.reset.flag = 0#4 ∧
  State.reset.ir = 0#16 ∧ State.reset.mdr = 0#16 ∧ State.reset.adr = 0#16 ∧ State.reset.t = 0#16 ∧
  State.reset.ivr = 0#16 ∧ State.reset.phase = .fetch ∧ State.reset.impulse = 1 ∧ State.reset.pending = false ∧
  State.reset.halted = false ∧ State.reset.haltReason = none ∧
  ∀ a, Memory.read State.reset.mem a = if a = 1000 then 0x0C#8 else if a = 1001 then 0xE0#8 else 0x00#8
end

