-- ==== Sys2Proof/Laws/Memory.lean ====
section
/-! SUPPORT. What the memory operations do: a byte reads what was last written to it, every other byte is left alone, and
every operation keeps the canonical form, in which equal contents are equal lists. -/

namespace Sys2Proof.Machine

/-! ## One byte -/

theorem Memory.mem_erase (m : Memory) (a : Nat) (c : Host.Cell) : c ∈ Memory.erase m a ↔ c ∈ m ∧ c.1 ≠ a := by
  induction m with
  | nil => simp [Memory.erase]
  | cons d m ih =>
    by_cases hd : d.1 = a
    · simp only [Memory.erase, if_pos hd, ih, List.mem_cons]
      constructor
      · exact fun h => ⟨.inr h.1, h.2⟩
      · rintro ⟨rfl | h, hne⟩
        · exact absurd hd hne
        · exact ⟨h, hne⟩
    · simp only [Memory.erase, if_neg hd, ih, List.mem_cons]
      constructor
      · rintro (rfl | h)
        · exact ⟨.inl rfl, hd⟩
        · exact ⟨.inr h.1, h.2⟩
      · rintro ⟨rfl | h, hne⟩
        · exact .inl rfl
        · exact .inr ⟨h, hne⟩

theorem Memory.read_erase (m : Memory) (a b : Nat) :
    Memory.read (Memory.erase m a) b = if b = a then resetByte b else Memory.read m b := by
  induction m with
  | nil => simp [Memory.erase, Memory.read]
  | cons c m ih =>
    by_cases hc : c.1 = a
    · by_cases hb : b = a
      · simpa only [Memory.erase, if_pos hc, if_pos hb] using ih
      · have hcb : c.1 ≠ b := fun e => hb (e ▸ hc)
        simpa only [Memory.erase, if_pos hc, if_neg hb, Memory.read, if_neg hcb] using ih
    · by_cases hb : b = a
      · have hcb : c.1 ≠ b := fun e => hc (e.trans hb)
        simpa only [Memory.erase, if_neg hc, if_pos hb, Memory.read, if_neg hcb] using ih
      · simp only [Memory.erase, if_neg hc, if_neg hb, Memory.read, ih]

theorem Memory.read_insertCell (m : Memory) (c : Host.Cell) (b : Nat) (h : ∀ d ∈ m, d.1 ≠ c.1) :
    Memory.read (Memory.insertCell m c) b = if b = c.1 then c.2 else Memory.read m b := by
  induction m with
  | nil => simp only [Memory.insertCell, Memory.read, eq_comm (a := b)]
  | cons d m ih =>
    have ih := ih fun e he => h e (List.mem_cons_of_mem _ he)
    by_cases hlt : c.1 < d.1
    · simp only [Memory.insertCell, if_pos hlt, Memory.read, eq_comm (a := b)]
    · by_cases hb : d.1 = b
      · have hbc : b ≠ c.1 := fun e => h d List.mem_cons_self (hb.trans e)
        simp only [Memory.insertCell, if_neg hlt, Memory.read, if_pos hb, if_neg hbc]
      · simp only [Memory.insertCell, if_neg hlt, Memory.read, if_neg hb, ih]

/-- A byte reads what was last written to it, and a write leaves every other byte alone. -/
theorem Memory.read_write (m : Memory) (a b : Nat) (v : Byte) :
    Memory.read (Memory.write m a v) b = if b = a then v else Memory.read m b := by
  have hf : ∀ d ∈ Memory.erase m a, d.1 ≠ (a, v).1 := fun d hd => ((Memory.mem_erase m a d).1 hd).2
  by_cases hv : v = resetByte a
  · rw [Memory.write, if_pos hv, Memory.read_erase]
    by_cases hb : b = a
    · simp only [hv, hb, if_true]
    · simp only [if_neg hb]
  · rw [Memory.write, if_neg hv, Memory.read_insertCell _ _ _ hf, Memory.read_erase]
    by_cases hb : b = a <;> simp only [hb, if_true, if_false]

/-! ## The canonical form -/

theorem Memory.mem_insertCell (m : Memory) (c d : Host.Cell) :
    d ∈ Memory.insertCell m c ↔ d = c ∨ d ∈ m := by
  induction m with
  | nil => simp [Memory.insertCell]
  | cons e m ih =>
    by_cases hlt : c.1 < e.1
    · simp [Memory.insertCell, hlt]
    · simp [Memory.insertCell, hlt, ih, or_left_comm]

theorem Memory.pairwise_insertCell (m : Memory) (c : Host.Cell) (h : ∀ d ∈ m, d.1 ≠ c.1)
    (hm : m.Pairwise fun x y => x.1 < y.1) : (Memory.insertCell m c).Pairwise fun x y => x.1 < y.1 := by
  induction m with
  | nil => simp [Memory.insertCell]
  | cons d m ih =>
    obtain ⟨hd, hm⟩ := List.pairwise_cons.1 hm
    have ih := ih (fun e he => h e (List.mem_cons_of_mem _ he)) hm
    by_cases hlt : c.1 < d.1
    · simp only [Memory.insertCell, hlt, if_true, List.pairwise_cons]
      refine ⟨fun e he => ?_, hd, hm⟩
      rcases List.mem_cons.1 he with rfl | he
      · exact hlt
      · exact hlt.trans (hd e he)
    · have hdc : d.1 < c.1 := lt_of_le_of_ne (not_lt.1 hlt) (h d List.mem_cons_self)
      simp only [Memory.insertCell, hlt, if_false, List.pairwise_cons]
      refine ⟨fun e he => ?_, ih⟩
      rcases (Memory.mem_insertCell m c e).1 he with rfl | he
      · exact hdc
      · exact hd e he

theorem Memory.pairwise_erase (m : Memory) (a : Nat) (h : m.Pairwise fun x y => x.1 < y.1) :
    (Memory.erase m a).Pairwise fun x y => x.1 < y.1 := by
  induction m with
  | nil => exact h
  | cons c m ih =>
    obtain ⟨hc, hm⟩ := List.pairwise_cons.1 h
    by_cases hca : c.1 = a
    · simpa only [Memory.erase, if_pos hca] using ih hm
    · simp only [Memory.erase, if_neg hca, List.pairwise_cons]
      exact ⟨fun d hd => hc d ((Memory.mem_erase m a d).1 hd).1, ih hm⟩

/-- A write inside the address space keeps the canonical form. -/
theorem Memory.write_wf (m : Memory) (a : Nat) (v : Byte) (ha : a < Config.memoryBytes) (h : Memory.wf m) :
    Memory.wf (Memory.write m a v) := by
  have hp := Memory.pairwise_erase m a h.1
  have hc : ∀ c ∈ Memory.erase m a, c.1 < Config.memoryBytes ∧ c.2 ≠ resetByte c.1 :=
    fun c hc => h.2 c ((Memory.mem_erase m a c).1 hc).1
  by_cases hv : v = resetByte a
  · rw [Memory.write, if_pos hv]
    exact ⟨hp, hc⟩
  · have hf : ∀ d ∈ Memory.erase m a, d.1 ≠ (a, v).1 := fun d hd => ((Memory.mem_erase m a d).1 hd).2
    rw [Memory.write, if_neg hv]
    refine ⟨Memory.pairwise_insertCell _ (a, v) hf hp, fun c hmem => ?_⟩
    · rcases (Memory.mem_insertCell _ _ _).1 hmem with rfl | hmem
      · exact ⟨ha, hv⟩
      · exact hc c hmem

theorem Memory.word_lt (a : Word) : a.toNat < Config.memoryBytes := a.isLt

/-- A word write keeps the canonical form. -/
theorem Memory.writeWord_wf (m : Memory) (a v : Word) (h : Memory.wf m) : Memory.wf (Memory.writeWord m a v) :=
  Memory.write_wf _ _ _ (Memory.word_lt _) (Memory.write_wf _ _ _ (Memory.word_lt _) h)

/-- Writing bytes that fit keeps the canonical form. -/
theorem Memory.writeBytes_wf (bs : List Byte) (m : Memory) (a : Nat) (ha : a + bs.length ≤ Config.memoryBytes)
    (h : Memory.wf m) : Memory.wf (Memory.writeBytes m a bs) := by
  induction bs generalizing m a with
  | nil => exact h
  | cons b bs ih =>
    have hl : a + (bs.length + 1) ≤ Config.memoryBytes := ha
    exact ih _ _ (by omega) (Memory.write_wf _ _ _ (by omega) h)

/-- The memory of an image that fits is in canonical form. -/
theorem Memory.ofImage_wf (bytes : List Byte) (h : bytes.length ≤ Config.memoryBytes) :
    Memory.wf (Memory.ofImage bytes) := by
  unfold Memory.ofImage
  refine Memory.write_wf _ _ _ (Memory.word_lt _) (Memory.write_wf _ _ _ (Memory.word_lt _) ?_)
  exact Memory.writeBytes_wf _ _ _ (by omega) (Memory.writeWord_wf _ _ _ (by decide))

/-- In canonical form, memories that read the same are the same. -/
theorem Memory.wf_ext {m n : Memory} (hm : Memory.wf m) (hn : Memory.wf n)
    (h : ∀ a, Memory.read m a = Memory.read n a) : m = n := by
  have below : ∀ {k : Memory} {a : Nat}, (∀ c ∈ k, a < c.1) → Memory.read k a = resetByte a := by
    intro k a hk
    induction k with
    | nil => rfl
    | cons c k ih =>
      have hc : c.1 ≠ a := (hk c List.mem_cons_self).ne'
      simp only [Memory.read, hc, if_false]
      exact ih fun d hd => hk d (List.mem_cons_of_mem _ hd)
  induction m generalizing n with
  | nil =>
    cases n with
    | nil => rfl
    | cons d n =>
      have := h d.1
      simp only [Memory.read, if_true] at this
      exact absurd this.symm (hn.2 d List.mem_cons_self).2
  | cons c m ih =>
    obtain ⟨hc, hmp⟩ := List.pairwise_cons.1 hm.1
    cases n with
    | nil =>
      have := h c.1
      simp only [Memory.read, if_true] at this
      exact absurd this (hm.2 c List.mem_cons_self).2
    | cons d n =>
      obtain ⟨hd, hnp⟩ := List.pairwise_cons.1 hn.1
      have hcd : c.1 = d.1 := by
        rcases lt_trichotomy c.1 d.1 with hlt | he | hlt
        · have h1 := h c.1
          rw [below (k := d :: n) (a := c.1) ?_] at h1
          · simp only [Memory.read, if_true] at h1
            exact absurd h1 (hm.2 c List.mem_cons_self).2
          · intro e he
            rcases List.mem_cons.1 he with rfl | he
            · exact hlt
            · exact hlt.trans (hd e he)
        · exact he
        · have h1 := h d.1
          rw [below (k := c :: m) (a := d.1) ?_] at h1
          · simp only [Memory.read, if_true] at h1
            exact absurd h1.symm (hn.2 d List.mem_cons_self).2
          · intro e he
            rcases List.mem_cons.1 he with rfl | he
            · exact hlt
            · exact hlt.trans (hc e he)
      have hv : c.2 = d.2 := by
        have := h c.1
        simpa [Memory.read, hcd] using this
      have htail : m = n := by
        refine ih ⟨hmp, fun e he => hm.2 e (List.mem_cons_of_mem _ he)⟩
          ⟨hnp, fun e he => hn.2 e (List.mem_cons_of_mem _ he)⟩ fun a => ?_
        have ha := h a
        by_cases hca : c.1 = a
        · rw [below (fun e he => hca ▸ hc e he), below (fun e he => (hcd ▸ hca) ▸ hd e he)]
        · have hda : d.1 ≠ a := hcd ▸ hca
          simpa [Memory.read, hca, hda] using ha
      rw [Prod.ext hcd hv, htail]

/-! ## Words -/

theorem word_succ_ne (a : Word) : (a + 1#16).toNat ≠ a.toNat := by
  have := a.isLt
  simp only [BitVec.toNat_add, BitVec.toNat_ofNat]
  omega

/-- A word is its high byte above its low byte. -/
theorem word_of_halves (v : Word) : (v.extractLsb' 8 8 ++ v.extractLsb' 0 8 : Word) = v := by
  refine BitVec.eq_of_getLsbD_eq fun i hi => ?_
  rw [BitVec.getLsbD_append]
  by_cases h8 : i < 8
  · simp [h8]
  · have h1 : i - 8 < 8 := by omega
    have h2 : 8 + (i - 8) = i := by omega
    simp [h8, h1, h2]

/-- What a word write does to every byte (20_memory.md R62). -/
theorem Memory.read_writeWord (m : Memory) (a v : Word) (b : Nat) :
    Memory.read (Memory.writeWord m a v) b =
      if b = (a + 1#16).toNat then v.extractLsb' 8 8
      else if b = a.toNat then v.extractLsb' 0 8
      else Memory.read m b := by
  simp [Memory.writeWord, Memory.read_write]

/-- A word reads back what was written to it. -/
theorem Memory.readWord_writeWord (m : Memory) (a v : Word) :
    Memory.readWord (Memory.writeWord m a v) a = v := by
  have h := word_succ_ne a
  simp only [Memory.readWord, Memory.read_writeWord, if_true, if_neg (Ne.symm h)]
  exact word_of_halves v

/-- A word whose two bytes a write does not touch reads as before. -/
theorem Memory.readWord_writeWord_of_disjoint (m : Memory) (a b v : Word)
    (h0 : b ≠ a) (h1 : b ≠ a + 1#16) (h2 : b + 1#16 ≠ a) :
    Memory.readWord (Memory.writeWord m a v) b = Memory.readWord m b := by
  have n0 : b.toNat ≠ a.toNat := fun e => h0 (BitVec.eq_of_toNat_eq e)
  have n1 : b.toNat ≠ (a + 1#16).toNat := fun e => h1 (BitVec.eq_of_toNat_eq e)
  have n2 : (b + 1#16).toNat ≠ a.toNat := fun e => h2 (BitVec.eq_of_toNat_eq e)
  have n3 : (b + 1#16).toNat ≠ (a + 1#16).toNat := fun e =>
    h0 (by simpa using BitVec.eq_of_toNat_eq e)
  simp only [Memory.readWord, Memory.read_writeWord, if_neg n0, if_neg n1, if_neg n2, if_neg n3]

end Sys2Proof.Machine
end

