-- ==== Sys2Proof/Laws/State.lean ====
section
/-! SUPPORT. One lemma for each field of the state after each named update, all true by unfolding, and the same for `R[r]`
and for a word of memory. -/

namespace Sys2Proof.Machine

/-! ## `setReg` -/

@[simp] theorem State.setReg_regs (s : State) (r : Reg) (v : Word) : (s.setReg r v).regs = s.regs.set r.val v := rfl
@[simp] theorem State.setReg_pc (s : State) (r : Reg) (v : Word) : (s.setReg r v).pc = s.pc := rfl
@[simp] theorem State.setReg_sp (s : State) (r : Reg) (v : Word) : (s.setReg r v).sp = s.sp := rfl
@[simp] theorem State.setReg_flag (s : State) (r : Reg) (v : Word) : (s.setReg r v).flag = s.flag := rfl
@[simp] theorem State.setReg_ir (s : State) (r : Reg) (v : Word) : (s.setReg r v).ir = s.ir := rfl
@[simp] theorem State.setReg_mdr (s : State) (r : Reg) (v : Word) : (s.setReg r v).mdr = s.mdr := rfl
@[simp] theorem State.setReg_adr (s : State) (r : Reg) (v : Word) : (s.setReg r v).adr = s.adr := rfl
@[simp] theorem State.setReg_t (s : State) (r : Reg) (v : Word) : (s.setReg r v).t = s.t := rfl
@[simp] theorem State.setReg_ivr (s : State) (r : Reg) (v : Word) : (s.setReg r v).ivr = s.ivr := rfl
@[simp] theorem State.setReg_phase (s : State) (r : Reg) (v : Word) : (s.setReg r v).phase = s.phase := rfl
@[simp] theorem State.setReg_impulse (s : State) (r : Reg) (v : Word) : (s.setReg r v).impulse = s.impulse := rfl
@[simp] theorem State.setReg_pending (s : State) (r : Reg) (v : Word) : (s.setReg r v).pending = s.pending := rfl
@[simp] theorem State.setReg_halted (s : State) (r : Reg) (v : Word) : (s.setReg r v).halted = s.halted := rfl
@[simp] theorem State.setReg_reason (s : State) (r : Reg) (v : Word) : (s.setReg r v).reason = s.reason := rfl
@[simp] theorem State.setReg_mem (s : State) (r : Reg) (v : Word) : (s.setReg r v).mem = s.mem := rfl
@[simp] theorem State.setReg_memRead (s : State) (r : Reg) (v : Word) (x : Word) : (s.setReg r v).memRead x = s.memRead x := rfl

/-! ## `setPc` -/

@[simp] theorem State.setPc_regs (s : State) (v : Word) : (s.setPc v).regs = s.regs := rfl
@[simp] theorem State.setPc_pc (s : State) (v : Word) : (s.setPc v).pc = v := rfl
@[simp] theorem State.setPc_sp (s : State) (v : Word) : (s.setPc v).sp = s.sp := rfl
@[simp] theorem State.setPc_flag (s : State) (v : Word) : (s.setPc v).flag = s.flag := rfl
@[simp] theorem State.setPc_ir (s : State) (v : Word) : (s.setPc v).ir = s.ir := rfl
@[simp] theorem State.setPc_mdr (s : State) (v : Word) : (s.setPc v).mdr = s.mdr := rfl
@[simp] theorem State.setPc_adr (s : State) (v : Word) : (s.setPc v).adr = s.adr := rfl
@[simp] theorem State.setPc_t (s : State) (v : Word) : (s.setPc v).t = s.t := rfl
@[simp] theorem State.setPc_ivr (s : State) (v : Word) : (s.setPc v).ivr = s.ivr := rfl
@[simp] theorem State.setPc_phase (s : State) (v : Word) : (s.setPc v).phase = s.phase := rfl
@[simp] theorem State.setPc_impulse (s : State) (v : Word) : (s.setPc v).impulse = s.impulse := rfl
@[simp] theorem State.setPc_pending (s : State) (v : Word) : (s.setPc v).pending = s.pending := rfl
@[simp] theorem State.setPc_halted (s : State) (v : Word) : (s.setPc v).halted = s.halted := rfl
@[simp] theorem State.setPc_reason (s : State) (v : Word) : (s.setPc v).reason = s.reason := rfl
@[simp] theorem State.setPc_mem (s : State) (v : Word) : (s.setPc v).mem = s.mem := rfl
@[simp] theorem State.setPc_reg (s : State) (v : Word) (q : Reg) : (s.setPc v).reg q = s.reg q := rfl
@[simp] theorem State.setPc_memRead (s : State) (v : Word) (x : Word) : (s.setPc v).memRead x = s.memRead x := rfl

/-! ## `setSp` -/

@[simp] theorem State.setSp_regs (s : State) (v : Word) : (s.setSp v).regs = s.regs := rfl
@[simp] theorem State.setSp_pc (s : State) (v : Word) : (s.setSp v).pc = s.pc := rfl
@[simp] theorem State.setSp_sp (s : State) (v : Word) : (s.setSp v).sp = v := rfl
@[simp] theorem State.setSp_flag (s : State) (v : Word) : (s.setSp v).flag = s.flag := rfl
@[simp] theorem State.setSp_ir (s : State) (v : Word) : (s.setSp v).ir = s.ir := rfl
@[simp] theorem State.setSp_mdr (s : State) (v : Word) : (s.setSp v).mdr = s.mdr := rfl
@[simp] theorem State.setSp_adr (s : State) (v : Word) : (s.setSp v).adr = s.adr := rfl
@[simp] theorem State.setSp_t (s : State) (v : Word) : (s.setSp v).t = s.t := rfl
@[simp] theorem State.setSp_ivr (s : State) (v : Word) : (s.setSp v).ivr = s.ivr := rfl
@[simp] theorem State.setSp_phase (s : State) (v : Word) : (s.setSp v).phase = s.phase := rfl
@[simp] theorem State.setSp_impulse (s : State) (v : Word) : (s.setSp v).impulse = s.impulse := rfl
@[simp] theorem State.setSp_pending (s : State) (v : Word) : (s.setSp v).pending = s.pending := rfl
@[simp] theorem State.setSp_halted (s : State) (v : Word) : (s.setSp v).halted = s.halted := rfl
@[simp] theorem State.setSp_reason (s : State) (v : Word) : (s.setSp v).reason = s.reason := rfl
@[simp] theorem State.setSp_mem (s : State) (v : Word) : (s.setSp v).mem = s.mem := rfl
@[simp] theorem State.setSp_reg (s : State) (v : Word) (q : Reg) : (s.setSp v).reg q = s.reg q := rfl
@[simp] theorem State.setSp_memRead (s : State) (v : Word) (x : Word) : (s.setSp v).memRead x = s.memRead x := rfl

/-! ## `setFlag` -/

@[simp] theorem State.setFlag_regs (s : State) (v : BitVec 4) : (s.setFlag v).regs = s.regs := rfl
@[simp] theorem State.setFlag_pc (s : State) (v : BitVec 4) : (s.setFlag v).pc = s.pc := rfl
@[simp] theorem State.setFlag_sp (s : State) (v : BitVec 4) : (s.setFlag v).sp = s.sp := rfl
@[simp] theorem State.setFlag_flag (s : State) (v : BitVec 4) : (s.setFlag v).flag = v := rfl
@[simp] theorem State.setFlag_ir (s : State) (v : BitVec 4) : (s.setFlag v).ir = s.ir := rfl
@[simp] theorem State.setFlag_mdr (s : State) (v : BitVec 4) : (s.setFlag v).mdr = s.mdr := rfl
@[simp] theorem State.setFlag_adr (s : State) (v : BitVec 4) : (s.setFlag v).adr = s.adr := rfl
@[simp] theorem State.setFlag_t (s : State) (v : BitVec 4) : (s.setFlag v).t = s.t := rfl
@[simp] theorem State.setFlag_ivr (s : State) (v : BitVec 4) : (s.setFlag v).ivr = s.ivr := rfl
@[simp] theorem State.setFlag_phase (s : State) (v : BitVec 4) : (s.setFlag v).phase = s.phase := rfl
@[simp] theorem State.setFlag_impulse (s : State) (v : BitVec 4) : (s.setFlag v).impulse = s.impulse := rfl
@[simp] theorem State.setFlag_pending (s : State) (v : BitVec 4) : (s.setFlag v).pending = s.pending := rfl
@[simp] theorem State.setFlag_halted (s : State) (v : BitVec 4) : (s.setFlag v).halted = s.halted := rfl
@[simp] theorem State.setFlag_reason (s : State) (v : BitVec 4) : (s.setFlag v).reason = s.reason := rfl
@[simp] theorem State.setFlag_mem (s : State) (v : BitVec 4) : (s.setFlag v).mem = s.mem := rfl
@[simp] theorem State.setFlag_reg (s : State) (v : BitVec 4) (q : Reg) : (s.setFlag v).reg q = s.reg q := rfl
@[simp] theorem State.setFlag_memRead (s : State) (v : BitVec 4) (x : Word) : (s.setFlag v).memRead x = s.memRead x := rfl

/-! ## `setIr` -/

@[simp] theorem State.setIr_regs (s : State) (v : Word) : (s.setIr v).regs = s.regs := rfl
@[simp] theorem State.setIr_pc (s : State) (v : Word) : (s.setIr v).pc = s.pc := rfl
@[simp] theorem State.setIr_sp (s : State) (v : Word) : (s.setIr v).sp = s.sp := rfl
@[simp] theorem State.setIr_flag (s : State) (v : Word) : (s.setIr v).flag = s.flag := rfl
@[simp] theorem State.setIr_ir (s : State) (v : Word) : (s.setIr v).ir = v := rfl
@[simp] theorem State.setIr_mdr (s : State) (v : Word) : (s.setIr v).mdr = s.mdr := rfl
@[simp] theorem State.setIr_adr (s : State) (v : Word) : (s.setIr v).adr = s.adr := rfl
@[simp] theorem State.setIr_t (s : State) (v : Word) : (s.setIr v).t = s.t := rfl
@[simp] theorem State.setIr_ivr (s : State) (v : Word) : (s.setIr v).ivr = s.ivr := rfl
@[simp] theorem State.setIr_phase (s : State) (v : Word) : (s.setIr v).phase = s.phase := rfl
@[simp] theorem State.setIr_impulse (s : State) (v : Word) : (s.setIr v).impulse = s.impulse := rfl
@[simp] theorem State.setIr_pending (s : State) (v : Word) : (s.setIr v).pending = s.pending := rfl
@[simp] theorem State.setIr_halted (s : State) (v : Word) : (s.setIr v).halted = s.halted := rfl
@[simp] theorem State.setIr_reason (s : State) (v : Word) : (s.setIr v).reason = s.reason := rfl
@[simp] theorem State.setIr_mem (s : State) (v : Word) : (s.setIr v).mem = s.mem := rfl
@[simp] theorem State.setIr_reg (s : State) (v : Word) (q : Reg) : (s.setIr v).reg q = s.reg q := rfl
@[simp] theorem State.setIr_memRead (s : State) (v : Word) (x : Word) : (s.setIr v).memRead x = s.memRead x := rfl

/-! ## `setMdr` -/

@[simp] theorem State.setMdr_regs (s : State) (v : Word) : (s.setMdr v).regs = s.regs := rfl
@[simp] theorem State.setMdr_pc (s : State) (v : Word) : (s.setMdr v).pc = s.pc := rfl
@[simp] theorem State.setMdr_sp (s : State) (v : Word) : (s.setMdr v).sp = s.sp := rfl
@[simp] theorem State.setMdr_flag (s : State) (v : Word) : (s.setMdr v).flag = s.flag := rfl
@[simp] theorem State.setMdr_ir (s : State) (v : Word) : (s.setMdr v).ir = s.ir := rfl
@[simp] theorem State.setMdr_mdr (s : State) (v : Word) : (s.setMdr v).mdr = v := rfl
@[simp] theorem State.setMdr_adr (s : State) (v : Word) : (s.setMdr v).adr = s.adr := rfl
@[simp] theorem State.setMdr_t (s : State) (v : Word) : (s.setMdr v).t = s.t := rfl
@[simp] theorem State.setMdr_ivr (s : State) (v : Word) : (s.setMdr v).ivr = s.ivr := rfl
@[simp] theorem State.setMdr_phase (s : State) (v : Word) : (s.setMdr v).phase = s.phase := rfl
@[simp] theorem State.setMdr_impulse (s : State) (v : Word) : (s.setMdr v).impulse = s.impulse := rfl
@[simp] theorem State.setMdr_pending (s : State) (v : Word) : (s.setMdr v).pending = s.pending := rfl
@[simp] theorem State.setMdr_halted (s : State) (v : Word) : (s.setMdr v).halted = s.halted := rfl
@[simp] theorem State.setMdr_reason (s : State) (v : Word) : (s.setMdr v).reason = s.reason := rfl
@[simp] theorem State.setMdr_mem (s : State) (v : Word) : (s.setMdr v).mem = s.mem := rfl
@[simp] theorem State.setMdr_reg (s : State) (v : Word) (q : Reg) : (s.setMdr v).reg q = s.reg q := rfl
@[simp] theorem State.setMdr_memRead (s : State) (v : Word) (x : Word) : (s.setMdr v).memRead x = s.memRead x := rfl

/-! ## `setAdr` -/

@[simp] theorem State.setAdr_regs (s : State) (v : Word) : (s.setAdr v).regs = s.regs := rfl
@[simp] theorem State.setAdr_pc (s : State) (v : Word) : (s.setAdr v).pc = s.pc := rfl
@[simp] theorem State.setAdr_sp (s : State) (v : Word) : (s.setAdr v).sp = s.sp := rfl
@[simp] theorem State.setAdr_flag (s : State) (v : Word) : (s.setAdr v).flag = s.flag := rfl
@[simp] theorem State.setAdr_ir (s : State) (v : Word) : (s.setAdr v).ir = s.ir := rfl
@[simp] theorem State.setAdr_mdr (s : State) (v : Word) : (s.setAdr v).mdr = s.mdr := rfl
@[simp] theorem State.setAdr_adr (s : State) (v : Word) : (s.setAdr v).adr = v := rfl
@[simp] theorem State.setAdr_t (s : State) (v : Word) : (s.setAdr v).t = s.t := rfl
@[simp] theorem State.setAdr_ivr (s : State) (v : Word) : (s.setAdr v).ivr = s.ivr := rfl
@[simp] theorem State.setAdr_phase (s : State) (v : Word) : (s.setAdr v).phase = s.phase := rfl
@[simp] theorem State.setAdr_impulse (s : State) (v : Word) : (s.setAdr v).impulse = s.impulse := rfl
@[simp] theorem State.setAdr_pending (s : State) (v : Word) : (s.setAdr v).pending = s.pending := rfl
@[simp] theorem State.setAdr_halted (s : State) (v : Word) : (s.setAdr v).halted = s.halted := rfl
@[simp] theorem State.setAdr_reason (s : State) (v : Word) : (s.setAdr v).reason = s.reason := rfl
@[simp] theorem State.setAdr_mem (s : State) (v : Word) : (s.setAdr v).mem = s.mem := rfl
@[simp] theorem State.setAdr_reg (s : State) (v : Word) (q : Reg) : (s.setAdr v).reg q = s.reg q := rfl
@[simp] theorem State.setAdr_memRead (s : State) (v : Word) (x : Word) : (s.setAdr v).memRead x = s.memRead x := rfl

/-! ## `setT` -/

@[simp] theorem State.setT_regs (s : State) (v : Word) : (s.setT v).regs = s.regs := rfl
@[simp] theorem State.setT_pc (s : State) (v : Word) : (s.setT v).pc = s.pc := rfl
@[simp] theorem State.setT_sp (s : State) (v : Word) : (s.setT v).sp = s.sp := rfl
@[simp] theorem State.setT_flag (s : State) (v : Word) : (s.setT v).flag = s.flag := rfl
@[simp] theorem State.setT_ir (s : State) (v : Word) : (s.setT v).ir = s.ir := rfl
@[simp] theorem State.setT_mdr (s : State) (v : Word) : (s.setT v).mdr = s.mdr := rfl
@[simp] theorem State.setT_adr (s : State) (v : Word) : (s.setT v).adr = s.adr := rfl
@[simp] theorem State.setT_t (s : State) (v : Word) : (s.setT v).t = v := rfl
@[simp] theorem State.setT_ivr (s : State) (v : Word) : (s.setT v).ivr = s.ivr := rfl
@[simp] theorem State.setT_phase (s : State) (v : Word) : (s.setT v).phase = s.phase := rfl
@[simp] theorem State.setT_impulse (s : State) (v : Word) : (s.setT v).impulse = s.impulse := rfl
@[simp] theorem State.setT_pending (s : State) (v : Word) : (s.setT v).pending = s.pending := rfl
@[simp] theorem State.setT_halted (s : State) (v : Word) : (s.setT v).halted = s.halted := rfl
@[simp] theorem State.setT_reason (s : State) (v : Word) : (s.setT v).reason = s.reason := rfl
@[simp] theorem State.setT_mem (s : State) (v : Word) : (s.setT v).mem = s.mem := rfl
@[simp] theorem State.setT_reg (s : State) (v : Word) (q : Reg) : (s.setT v).reg q = s.reg q := rfl
@[simp] theorem State.setT_memRead (s : State) (v : Word) (x : Word) : (s.setT v).memRead x = s.memRead x := rfl

/-! ## `setIvr` -/

@[simp] theorem State.setIvr_regs (s : State) (v : Word) : (s.setIvr v).regs = s.regs := rfl
@[simp] theorem State.setIvr_pc (s : State) (v : Word) : (s.setIvr v).pc = s.pc := rfl
@[simp] theorem State.setIvr_sp (s : State) (v : Word) : (s.setIvr v).sp = s.sp := rfl
@[simp] theorem State.setIvr_flag (s : State) (v : Word) : (s.setIvr v).flag = s.flag := rfl
@[simp] theorem State.setIvr_ir (s : State) (v : Word) : (s.setIvr v).ir = s.ir := rfl
@[simp] theorem State.setIvr_mdr (s : State) (v : Word) : (s.setIvr v).mdr = s.mdr := rfl
@[simp] theorem State.setIvr_adr (s : State) (v : Word) : (s.setIvr v).adr = s.adr := rfl
@[simp] theorem State.setIvr_t (s : State) (v : Word) : (s.setIvr v).t = s.t := rfl
@[simp] theorem State.setIvr_ivr (s : State) (v : Word) : (s.setIvr v).ivr = v := rfl
@[simp] theorem State.setIvr_phase (s : State) (v : Word) : (s.setIvr v).phase = s.phase := rfl
@[simp] theorem State.setIvr_impulse (s : State) (v : Word) : (s.setIvr v).impulse = s.impulse := rfl
@[simp] theorem State.setIvr_pending (s : State) (v : Word) : (s.setIvr v).pending = s.pending := rfl
@[simp] theorem State.setIvr_halted (s : State) (v : Word) : (s.setIvr v).halted = s.halted := rfl
@[simp] theorem State.setIvr_reason (s : State) (v : Word) : (s.setIvr v).reason = s.reason := rfl
@[simp] theorem State.setIvr_mem (s : State) (v : Word) : (s.setIvr v).mem = s.mem := rfl
@[simp] theorem State.setIvr_reg (s : State) (v : Word) (q : Reg) : (s.setIvr v).reg q = s.reg q := rfl
@[simp] theorem State.setIvr_memRead (s : State) (v : Word) (x : Word) : (s.setIvr v).memRead x = s.memRead x := rfl

/-! ## `setPending` -/

@[simp] theorem State.setPending_regs (s : State) (b : Bool) : (s.setPending b).regs = s.regs := rfl
@[simp] theorem State.setPending_pc (s : State) (b : Bool) : (s.setPending b).pc = s.pc := rfl
@[simp] theorem State.setPending_sp (s : State) (b : Bool) : (s.setPending b).sp = s.sp := rfl
@[simp] theorem State.setPending_flag (s : State) (b : Bool) : (s.setPending b).flag = s.flag := rfl
@[simp] theorem State.setPending_ir (s : State) (b : Bool) : (s.setPending b).ir = s.ir := rfl
@[simp] theorem State.setPending_mdr (s : State) (b : Bool) : (s.setPending b).mdr = s.mdr := rfl
@[simp] theorem State.setPending_adr (s : State) (b : Bool) : (s.setPending b).adr = s.adr := rfl
@[simp] theorem State.setPending_t (s : State) (b : Bool) : (s.setPending b).t = s.t := rfl
@[simp] theorem State.setPending_ivr (s : State) (b : Bool) : (s.setPending b).ivr = s.ivr := rfl
@[simp] theorem State.setPending_phase (s : State) (b : Bool) : (s.setPending b).phase = s.phase := rfl
@[simp] theorem State.setPending_impulse (s : State) (b : Bool) : (s.setPending b).impulse = s.impulse := rfl
@[simp] theorem State.setPending_pending (s : State) (b : Bool) : (s.setPending b).pending = b := rfl
@[simp] theorem State.setPending_halted (s : State) (b : Bool) : (s.setPending b).halted = s.halted := rfl
@[simp] theorem State.setPending_reason (s : State) (b : Bool) : (s.setPending b).reason = s.reason := rfl
@[simp] theorem State.setPending_mem (s : State) (b : Bool) : (s.setPending b).mem = s.mem := rfl
@[simp] theorem State.setPending_reg (s : State) (b : Bool) (q : Reg) : (s.setPending b).reg q = s.reg q := rfl
@[simp] theorem State.setPending_memRead (s : State) (b : Bool) (x : Word) : (s.setPending b).memRead x = s.memRead x := rfl

/-! ## `memWrite` -/

@[simp] theorem State.memWrite_regs (s : State) (a v : Word) : (s.memWrite a v).regs = s.regs := rfl
@[simp] theorem State.memWrite_pc (s : State) (a v : Word) : (s.memWrite a v).pc = s.pc := rfl
@[simp] theorem State.memWrite_sp (s : State) (a v : Word) : (s.memWrite a v).sp = s.sp := rfl
@[simp] theorem State.memWrite_flag (s : State) (a v : Word) : (s.memWrite a v).flag = s.flag := rfl
@[simp] theorem State.memWrite_ir (s : State) (a v : Word) : (s.memWrite a v).ir = s.ir := rfl
@[simp] theorem State.memWrite_mdr (s : State) (a v : Word) : (s.memWrite a v).mdr = s.mdr := rfl
@[simp] theorem State.memWrite_adr (s : State) (a v : Word) : (s.memWrite a v).adr = s.adr := rfl
@[simp] theorem State.memWrite_t (s : State) (a v : Word) : (s.memWrite a v).t = s.t := rfl
@[simp] theorem State.memWrite_ivr (s : State) (a v : Word) : (s.memWrite a v).ivr = s.ivr := rfl
@[simp] theorem State.memWrite_phase (s : State) (a v : Word) : (s.memWrite a v).phase = s.phase := rfl
@[simp] theorem State.memWrite_impulse (s : State) (a v : Word) : (s.memWrite a v).impulse = s.impulse := rfl
@[simp] theorem State.memWrite_pending (s : State) (a v : Word) : (s.memWrite a v).pending = s.pending := rfl
@[simp] theorem State.memWrite_halted (s : State) (a v : Word) : (s.memWrite a v).halted = s.halted := rfl
@[simp] theorem State.memWrite_reason (s : State) (a v : Word) : (s.memWrite a v).reason = s.reason := rfl
@[simp] theorem State.memWrite_mem (s : State) (a v : Word) : (s.memWrite a v).mem = Memory.writeWord s.mem a v := rfl
@[simp] theorem State.memWrite_reg (s : State) (a v : Word) (q : Reg) : (s.memWrite a v).reg q = s.reg q := rfl

/-! ## `gotoPhase` -/

@[simp] theorem State.gotoPhase_regs (s : State) (p : Phase) : (s.gotoPhase p).regs = s.regs := rfl
@[simp] theorem State.gotoPhase_pc (s : State) (p : Phase) : (s.gotoPhase p).pc = s.pc := rfl
@[simp] theorem State.gotoPhase_sp (s : State) (p : Phase) : (s.gotoPhase p).sp = s.sp := rfl
@[simp] theorem State.gotoPhase_flag (s : State) (p : Phase) : (s.gotoPhase p).flag = s.flag := rfl
@[simp] theorem State.gotoPhase_ir (s : State) (p : Phase) : (s.gotoPhase p).ir = s.ir := rfl
@[simp] theorem State.gotoPhase_mdr (s : State) (p : Phase) : (s.gotoPhase p).mdr = s.mdr := rfl
@[simp] theorem State.gotoPhase_adr (s : State) (p : Phase) : (s.gotoPhase p).adr = s.adr := rfl
@[simp] theorem State.gotoPhase_t (s : State) (p : Phase) : (s.gotoPhase p).t = s.t := rfl
@[simp] theorem State.gotoPhase_ivr (s : State) (p : Phase) : (s.gotoPhase p).ivr = s.ivr := rfl
@[simp] theorem State.gotoPhase_phase (s : State) (p : Phase) : (s.gotoPhase p).phase = p := rfl
@[simp] theorem State.gotoPhase_impulse (s : State) (p : Phase) : (s.gotoPhase p).impulse = 1 := rfl
@[simp] theorem State.gotoPhase_pending (s : State) (p : Phase) : (s.gotoPhase p).pending = s.pending := rfl
@[simp] theorem State.gotoPhase_halted (s : State) (p : Phase) : (s.gotoPhase p).halted = s.halted := rfl
@[simp] theorem State.gotoPhase_reason (s : State) (p : Phase) : (s.gotoPhase p).reason = s.reason := rfl
@[simp] theorem State.gotoPhase_mem (s : State) (p : Phase) : (s.gotoPhase p).mem = s.mem := rfl
@[simp] theorem State.gotoPhase_reg (s : State) (p : Phase) (q : Reg) : (s.gotoPhase p).reg q = s.reg q := rfl
@[simp] theorem State.gotoPhase_memRead (s : State) (p : Phase) (x : Word) : (s.gotoPhase p).memRead x = s.memRead x := rfl

/-! ## `setImpulse` -/

@[simp] theorem State.setImpulse_regs (s : State) (n : Nat) : (s.setImpulse n).regs = s.regs := rfl
@[simp] theorem State.setImpulse_pc (s : State) (n : Nat) : (s.setImpulse n).pc = s.pc := rfl
@[simp] theorem State.setImpulse_sp (s : State) (n : Nat) : (s.setImpulse n).sp = s.sp := rfl
@[simp] theorem State.setImpulse_flag (s : State) (n : Nat) : (s.setImpulse n).flag = s.flag := rfl
@[simp] theorem State.setImpulse_ir (s : State) (n : Nat) : (s.setImpulse n).ir = s.ir := rfl
@[simp] theorem State.setImpulse_mdr (s : State) (n : Nat) : (s.setImpulse n).mdr = s.mdr := rfl
@[simp] theorem State.setImpulse_adr (s : State) (n : Nat) : (s.setImpulse n).adr = s.adr := rfl
@[simp] theorem State.setImpulse_t (s : State) (n : Nat) : (s.setImpulse n).t = s.t := rfl
@[simp] theorem State.setImpulse_ivr (s : State) (n : Nat) : (s.setImpulse n).ivr = s.ivr := rfl
@[simp] theorem State.setImpulse_phase (s : State) (n : Nat) : (s.setImpulse n).phase = s.phase := rfl
@[simp] theorem State.setImpulse_impulse (s : State) (n : Nat) : (s.setImpulse n).impulse = n := rfl
@[simp] theorem State.setImpulse_pending (s : State) (n : Nat) : (s.setImpulse n).pending = s.pending := rfl
@[simp] theorem State.setImpulse_halted (s : State) (n : Nat) : (s.setImpulse n).halted = s.halted := rfl
@[simp] theorem State.setImpulse_reason (s : State) (n : Nat) : (s.setImpulse n).reason = s.reason := rfl
@[simp] theorem State.setImpulse_mem (s : State) (n : Nat) : (s.setImpulse n).mem = s.mem := rfl
@[simp] theorem State.setImpulse_reg (s : State) (n : Nat) (q : Reg) : (s.setImpulse n).reg q = s.reg q := rfl
@[simp] theorem State.setImpulse_memRead (s : State) (n : Nat) (x : Word) : (s.setImpulse n).memRead x = s.memRead x := rfl

/-! ## `tick` -/

@[simp] theorem State.tick_regs (s : State) : (s.tick).regs = s.regs := rfl
@[simp] theorem State.tick_pc (s : State) : (s.tick).pc = s.pc := rfl
@[simp] theorem State.tick_sp (s : State) : (s.tick).sp = s.sp := rfl
@[simp] theorem State.tick_flag (s : State) : (s.tick).flag = s.flag := rfl
@[simp] theorem State.tick_ir (s : State) : (s.tick).ir = s.ir := rfl
@[simp] theorem State.tick_mdr (s : State) : (s.tick).mdr = s.mdr := rfl
@[simp] theorem State.tick_adr (s : State) : (s.tick).adr = s.adr := rfl
@[simp] theorem State.tick_t (s : State) : (s.tick).t = s.t := rfl
@[simp] theorem State.tick_ivr (s : State) : (s.tick).ivr = s.ivr := rfl
@[simp] theorem State.tick_phase (s : State) : (s.tick).phase = s.phase := rfl
@[simp] theorem State.tick_impulse (s : State) : (s.tick).impulse = s.impulse + 1 := rfl
@[simp] theorem State.tick_pending (s : State) : (s.tick).pending = s.pending := rfl
@[simp] theorem State.tick_halted (s : State) : (s.tick).halted = s.halted := rfl
@[simp] theorem State.tick_reason (s : State) : (s.tick).reason = s.reason := rfl
@[simp] theorem State.tick_mem (s : State) : (s.tick).mem = s.mem := rfl
@[simp] theorem State.tick_reg (s : State) (q : Reg) : (s.tick).reg q = s.reg q := rfl
@[simp] theorem State.tick_memRead (s : State) (x : Word) : (s.tick).memRead x = s.memRead x := rfl

/-! ## `halt` -/

@[simp] theorem State.halt_regs (s : State) (h : HaltReason) : (s.halt h).regs = s.regs := rfl
@[simp] theorem State.halt_pc (s : State) (h : HaltReason) : (s.halt h).pc = s.pc := rfl
@[simp] theorem State.halt_sp (s : State) (h : HaltReason) : (s.halt h).sp = s.sp := rfl
@[simp] theorem State.halt_flag (s : State) (h : HaltReason) : (s.halt h).flag = s.flag := rfl
@[simp] theorem State.halt_ir (s : State) (h : HaltReason) : (s.halt h).ir = s.ir := rfl
@[simp] theorem State.halt_mdr (s : State) (h : HaltReason) : (s.halt h).mdr = s.mdr := rfl
@[simp] theorem State.halt_adr (s : State) (h : HaltReason) : (s.halt h).adr = s.adr := rfl
@[simp] theorem State.halt_t (s : State) (h : HaltReason) : (s.halt h).t = s.t := rfl
@[simp] theorem State.halt_ivr (s : State) (h : HaltReason) : (s.halt h).ivr = s.ivr := rfl
@[simp] theorem State.halt_phase (s : State) (h : HaltReason) : (s.halt h).phase = s.phase := rfl
@[simp] theorem State.halt_impulse (s : State) (h : HaltReason) : (s.halt h).impulse = s.impulse := rfl
@[simp] theorem State.halt_pending (s : State) (h : HaltReason) : (s.halt h).pending = s.pending := rfl
@[simp] theorem State.halt_halted (s : State) (h : HaltReason) : (s.halt h).halted = true := rfl
@[simp] theorem State.halt_reason (s : State) (h : HaltReason) : (s.halt h).reason = some h := rfl
@[simp] theorem State.halt_mem (s : State) (h : HaltReason) : (s.halt h).mem = s.mem := rfl
@[simp] theorem State.halt_reg (s : State) (h : HaltReason) (q : Reg) : (s.halt h).reg q = s.reg q := rfl
@[simp] theorem State.halt_memRead (s : State) (h : HaltReason) (x : Word) : (s.halt h).memRead x = s.memRead x := rfl

/-! ## `outOfRange` -/

@[simp] theorem State.outOfRange_regs (s : State) : (s.outOfRange).regs = s.regs := rfl
@[simp] theorem State.outOfRange_pc (s : State) : (s.outOfRange).pc = s.pc := rfl
@[simp] theorem State.outOfRange_sp (s : State) : (s.outOfRange).sp = s.sp := rfl
@[simp] theorem State.outOfRange_flag (s : State) : (s.outOfRange).flag = s.flag := rfl
@[simp] theorem State.outOfRange_ir (s : State) : (s.outOfRange).ir = s.ir := rfl
@[simp] theorem State.outOfRange_mdr (s : State) : (s.outOfRange).mdr = s.mdr := rfl
@[simp] theorem State.outOfRange_adr (s : State) : (s.outOfRange).adr = s.adr := rfl
@[simp] theorem State.outOfRange_t (s : State) : (s.outOfRange).t = s.t := rfl
@[simp] theorem State.outOfRange_ivr (s : State) : (s.outOfRange).ivr = s.ivr := rfl
@[simp] theorem State.outOfRange_phase (s : State) : (s.outOfRange).phase = s.phase := rfl
@[simp] theorem State.outOfRange_impulse (s : State) : (s.outOfRange).impulse = s.impulse := rfl
@[simp] theorem State.outOfRange_pending (s : State) : (s.outOfRange).pending = s.pending := rfl
@[simp] theorem State.outOfRange_halted (s : State) : (s.outOfRange).halted = true := rfl
@[simp] theorem State.outOfRange_reason (s : State) : (s.outOfRange).reason = some (.impulseOutOfRange s.phase) := rfl
@[simp] theorem State.outOfRange_mem (s : State) : (s.outOfRange).mem = s.mem := rfl
@[simp] theorem State.outOfRange_reg (s : State) (q : Reg) : (s.outOfRange).reg q = s.reg q := rfl
@[simp] theorem State.outOfRange_memRead (s : State) (x : Word) : (s.outOfRange).memRead x = s.memRead x := rfl

/-! ## `endInstruction` -/

@[simp] theorem State.endInstruction_regs (s : State) : (s.endInstruction).regs = s.regs := rfl
@[simp] theorem State.endInstruction_pc (s : State) : (s.endInstruction).pc = s.pc := rfl
@[simp] theorem State.endInstruction_sp (s : State) : (s.endInstruction).sp = s.sp := rfl
@[simp] theorem State.endInstruction_flag (s : State) : (s.endInstruction).flag = s.flag := rfl
@[simp] theorem State.endInstruction_ir (s : State) : (s.endInstruction).ir = s.ir := rfl
@[simp] theorem State.endInstruction_mdr (s : State) : (s.endInstruction).mdr = s.mdr := rfl
@[simp] theorem State.endInstruction_adr (s : State) : (s.endInstruction).adr = s.adr := rfl
@[simp] theorem State.endInstruction_t (s : State) : (s.endInstruction).t = s.t := rfl
@[simp] theorem State.endInstruction_ivr (s : State) : (s.endInstruction).ivr = s.ivr := rfl
@[simp] theorem State.endInstruction_phase (s : State) : (s.endInstruction).phase = (if s.pending then .interrupt else .fetch) := rfl
@[simp] theorem State.endInstruction_impulse (s : State) : (s.endInstruction).impulse = 1 := rfl
@[simp] theorem State.endInstruction_pending (s : State) : (s.endInstruction).pending = s.pending := rfl
@[simp] theorem State.endInstruction_halted (s : State) : (s.endInstruction).halted = s.halted := rfl
@[simp] theorem State.endInstruction_reason (s : State) : (s.endInstruction).reason = s.reason := rfl
@[simp] theorem State.endInstruction_mem (s : State) : (s.endInstruction).mem = s.mem := rfl
@[simp] theorem State.endInstruction_reg (s : State) (q : Reg) : (s.endInstruction).reg q = s.reg q := rfl
@[simp] theorem State.endInstruction_memRead (s : State) (x : Word) : (s.endInstruction).memRead x = s.memRead x := rfl

/-! ## `raiseInterrupt` -/

@[simp] theorem State.raiseInterrupt_regs (s : State) : (s.raiseInterrupt).regs = s.regs := rfl
@[simp] theorem State.raiseInterrupt_pc (s : State) : (s.raiseInterrupt).pc = s.pc := rfl
@[simp] theorem State.raiseInterrupt_sp (s : State) : (s.raiseInterrupt).sp = s.sp := rfl
@[simp] theorem State.raiseInterrupt_flag (s : State) : (s.raiseInterrupt).flag = s.flag := rfl
@[simp] theorem State.raiseInterrupt_ir (s : State) : (s.raiseInterrupt).ir = s.ir := rfl
@[simp] theorem State.raiseInterrupt_mdr (s : State) : (s.raiseInterrupt).mdr = s.mdr := rfl
@[simp] theorem State.raiseInterrupt_adr (s : State) : (s.raiseInterrupt).adr = s.adr := rfl
@[simp] theorem State.raiseInterrupt_t (s : State) : (s.raiseInterrupt).t = s.t := rfl
@[simp] theorem State.raiseInterrupt_ivr (s : State) : (s.raiseInterrupt).ivr = Config.intVector := rfl
@[simp] theorem State.raiseInterrupt_phase (s : State) : (s.raiseInterrupt).phase = s.phase := rfl
@[simp] theorem State.raiseInterrupt_impulse (s : State) : (s.raiseInterrupt).impulse = s.impulse := rfl
@[simp] theorem State.raiseInterrupt_pending (s : State) : (s.raiseInterrupt).pending = true := rfl
@[simp] theorem State.raiseInterrupt_halted (s : State) : (s.raiseInterrupt).halted = s.halted := rfl
@[simp] theorem State.raiseInterrupt_reason (s : State) : (s.raiseInterrupt).reason = s.reason := rfl
@[simp] theorem State.raiseInterrupt_mem (s : State) : (s.raiseInterrupt).mem = s.mem := rfl
@[simp] theorem State.raiseInterrupt_reg (s : State) (q : Reg) : (s.raiseInterrupt).reg q = s.reg q := rfl
@[simp] theorem State.raiseInterrupt_memRead (s : State) (x : Word) : (s.raiseInterrupt).memRead x = s.memRead x := rfl

/-! ## Registers -/

/-- A register reads what was last written to it. -/
theorem State.setReg_reg (s : State) (r q : Reg) (v : Word) :
    (s.setReg r v).reg q = if q = r then v else s.reg q := by
  by_cases h : q = r
  · subst h; simp [State.reg]
  · have hv : r.val ≠ q.val := fun e => h (Fin.ext e.symm)
    simp [State.reg, h, Vector.getElem_set_ne _ _ hv]

end Sys2Proof.Machine
end

