-- ==== Sys2Proof/Laws/Operands.lean ====
section
/-! SUPPORT. What running the impulses of a phase does: source and destination resolution in closed form for every mode
(40_phase_control.md R142 to R152), and what the shared handlers leave. -/

namespace Sys2Proof.Machine

/-- The state when the source is resolved: its value is in T and the counter is at 6 (40_phase_control.md R142). -/
def State.afterSource (s : State) (mas : Mode) (rs : Reg) : State :=
  { s.afterOperand mas rs with t := s.operandValue s.pc mas rs, phase := .operandFetch, impulse := 6 }

/-- One more impulse of a phase that goes on. -/
theorem runPhase_go {line : Nat → State → State} {k n : Nat} {s u : State} (hn : s.impulse = n)
    (hu : line n s.tick = u) (hp : u.phase = s.phase) (hh : u.halted = false) (hi : n < u.impulse) :
    runPhase line (k + 1) s = runPhase line k u := by
  subst hn hu
  exact if_pos ⟨hp, hh, hi⟩

/-- The impulse that leaves the phase. -/
theorem runPhase_leave {line : Nat → State → State} {k n : Nat} {s u : State} (hn : s.impulse = n)
    (hu : line n s.tick = u) (hp : u.phase ≠ s.phase) : runPhase line (k + 1) s = u := by
  subst hn hu
  exact if_neg fun h => hp h.1

/-- Only the lines from the counter's value on matter. -/
theorem runPhase_congr {f g : Nat → State → State} {m : Nat} (h : ∀ n, m ≤ n → ∀ s, f n s = g n s) (k : Nat) (s : State)
    (hs : m ≤ s.impulse) : runPhase f k s = runPhase g k s := by
  induction k generalizing s with
  | zero => rfl
  | succ k ih =>
    simp only [runPhase, h s.impulse hs]
    split
    · next hc => exact ih _ (hs.trans hc.2.2.le)
    · rfl

/-- From impulse 6 on, OperandFetch is destination resolution (40_phase_control.md R142). -/
theorem operandStep_dest (single : Bool) (mas : Mode) (rs : Reg) (mad : Mode) (rd : Reg) (n : Nat) (hn : 6 ≤ n)
    (s : State) : operandStep single mas rs mad rd n s = destStep mad rd n s := by
  have h1 : n ≠ 1 := by omega
  have h5 : ¬ n ≤ 5 := by omega
  by_cases h9 : n ≤ 9
  · simp only [operandStep, h1, h5, hn, h9, false_and, and_false, and_self, if_true, if_false]
  · obtain ⟨m, rfl⟩ : ∃ m, n = m + 10 := ⟨n - 10, by omega⟩
    simp only [operandStep, h1, h5, h9, false_and, and_false, if_false]
    cases mad <;> rfl

/-- At impulses 1 to 5, OperandFetch of a defined Class1 pair of modes is source resolution (40_phase_control.md R142). -/
theorem operandStep_source (mas : Mode) (rs : Reg) (mad : Mode) (rd : Reg) (n : Nat) (h1 : 1 ≤ n) (h5 : n ≤ 5)
    (hd : combinationDefined mas mad = true) (s : State) :
    operandStep false mas rs mad rd n s = sourceStep mas rs n s := by
  simp [operandStep, h1, h5, hd]

/-- Source resolution runs from impulse 1 to impulse 6, in every mode (40_phase_control.md R143 to R146). -/
theorem runPhase_source (mas : Mode) (rs : Reg) (mad : Mode) (rd : Reg) (s : State) (k : Nat) (hh : s.halted = false)
    (hd : combinationDefined mas mad = true) :
    runPhase (operandStep false mas rs mad rd) (k + sourceLines mas) (s.gotoPhase .operandFetch) =
      runPhase (operandStep false mas rs mad rd) k (s.afterSource mas rs) := by
  have go : ∀ {k n : Nat} {s u : State}, s.impulse = n → 1 ≤ n → n ≤ 5 → sourceStep mas rs n s.tick = u →
      u.phase = s.phase → u.halted = false → n < u.impulse →
      runPhase (operandStep false mas rs mad rd) (k + 1) s = runPhase (operandStep false mas rs mad rd) k u :=
    fun hn h1 h5 hu => runPhase_go hn ((operandStep_source mas rs mad rd _ h1 h5 hd _).trans hu)
  obtain ⟨regs, pc, sp, flag, ir, mdr, adr, t, ivr, phase, impulse, pending, halted, reason, mem⟩ := s
  subst hh
  cases mas
  · refine (go (n := 1) rfl (by decide) (by decide) rfl rfl rfl (by exact Nat.lt_succ_self 1)).trans ?_
    refine (go (n := 2) rfl (by decide) (by decide) rfl rfl rfl (by exact Nat.lt_succ_self 2)).trans ?_
    exact go (n := 3) rfl (by decide) (by decide) rfl rfl rfl (by decide : 3 < 6)
  · exact go (n := 1) rfl (by decide) (by decide) rfl rfl rfl (by decide : 1 < 6)
  · refine (go (n := 1) rfl (by decide) (by decide) rfl rfl rfl (by exact Nat.lt_succ_self 1)).trans ?_
    refine (go (n := 2) rfl (by decide) (by decide) rfl rfl rfl (by exact Nat.lt_succ_self 2)).trans ?_
    exact go (n := 3) rfl (by decide) (by decide) rfl rfl rfl (by decide : 3 < 6)
  · refine (go (n := 1) rfl (by decide) (by decide) rfl rfl rfl (by exact Nat.lt_succ_self 1)).trans ?_
    refine (go (n := 2) rfl (by decide) (by decide) rfl rfl rfl (by exact Nat.lt_succ_self 2)).trans ?_
    refine (go (n := 3) rfl (by decide) (by decide) rfl rfl rfl (by exact Nat.lt_succ_self 3)).trans ?_
    refine (go (n := 4) rfl (by decide) (by decide) rfl rfl rfl (by exact Nat.lt_succ_self 4)).trans ?_
    exact go (n := 5) rfl (by decide) (by decide) rfl rfl rfl (by decide : 5 < 6)

/-- Destination resolution runs from impulse 6 to Execute, in every mode (40_phase_control.md R147 to R150). -/
theorem runPhase_dest (mad : Mode) (rd : Reg) (s : State) (k : Nat) (hh : s.halted = false) (hp : s.phase = .operandFetch)
    (hi : s.impulse = 6) :
    runPhase (destStep mad rd) (k + 4) s = (s.afterOperand mad rd).gotoPhase .execute := by
  obtain ⟨regs, pc, sp, flag, ir, mdr, adr, t, ivr, phase, impulse, pending, halted, reason, mem⟩ := s
  subst hh hp hi
  cases mad <;> rfl

/-- OperandFetch of a Class1 instruction with a defined pair of modes ends at Execute impulse 1 with the operands of
`State.afterTwoOperands`. -/
theorem runOperands_two (mas : Mode) (rs : Reg) (mad : Mode) (rd : Reg) (s : State) (hh : s.halted = false)
    (hd : combinationDefined mas mad = true) :
    runPhase (operandStep false mas rs mad rd) operandFetchLines (s.gotoPhase .operandFetch) =
      (s.afterTwoOperands mas rs mad rd).gotoPhase .execute := by
  have key : ∀ k, runPhase (operandStep false mas rs mad rd) ((k + 4) + sourceLines mas) (s.gotoPhase .operandFetch) =
      (s.afterTwoOperands mas rs mad rd).gotoPhase .execute := fun k => by
    rw [runPhase_source mas rs mad rd s _ hh hd, runPhase_congr (fun n hn => operandStep_dest false mas rs mad rd n hn) _ _
      (le_refl 6), runPhase_dest mad rd (s.afterSource mas rs) k hh rfl rfl]
    cases mad <;> rfl
  cases mas
  · exact key 2
  · exact key 4
  · exact key 2
  · exact key 0

/-- OperandFetch of a Class1 instruction with the undefined pair of modes halts at impulse 1 (40_phase_control.md R142). -/
theorem runOperands_undefined (mas : Mode) (rs : Reg) (mad : Mode) (rd : Reg) (s : State)
    (hd : combinationDefined mas mad = false) :
    runPhase (operandStep false mas rs mad rd) operandFetchLines (s.gotoPhase .operandFetch) =
      ((s.gotoPhase .operandFetch).setImpulse 2).halt .unreachableAddressingCombination := by
  cases mas <;> cases mad <;> first | rfl | exact absurd hd (by decide)

/-- OperandFetch of a Class2 instruction ends at Execute impulse 1 with its operand resolved (40_phase_control.md R142). -/
theorem runOperands_one (mad : Mode) (rd : Reg) (s : State) (hh : s.halted = false) :
    runPhase (destStep mad rd) operandFetchLines ((s.gotoPhase .operandFetch).setImpulse 6) =
      (s.afterOperand mad rd).gotoPhase .execute := by
  refine (runPhase_dest mad rd ((s.gotoPhase .operandFetch).setImpulse 6) 5 hh rfl rfl).trans ?_
  cases mad <;> rfl

/-- A handler does not see the phase and impulse at which it is started. -/
theorem runHandler_gotoPhase (line : Nat → State → State) (s : State) (p : Phase) :
    runHandler line (s.gotoPhase p) = runHandler line s := rfl

/-- A Class1 instruction with a defined pair of modes is its handler on the resolved operands. -/
theorem runTwoOperand_eq (mas : Mode) (rs : Reg) (mad : Mode) (rd : Reg) (line : Nat → State → State) (s : State)
    (hh : s.halted = false) (hd : combinationDefined mas mad = true) :
    runTwoOperand mas rs mad rd line s = runHandler line (s.afterTwoOperands mas rs mad rd) := by
  simp only [runTwoOperand, runOperands_two mas rs mad rd s hh hd, State.gotoPhase_phase, if_true, runHandler_gotoPhase]

/-- A Class1 instruction with the undefined pair of modes halts in OperandFetch, with nothing else changed. -/
theorem runTwoOperand_undefined (mas : Mode) (rs : Reg) (mad : Mode) (rd : Reg) (line : Nat → State → State) (s : State)
    (hd : combinationDefined mas mad = false) :
    runTwoOperand mas rs mad rd line s =
      ((s.gotoPhase .operandFetch).setImpulse 2).halt .unreachableAddressingCombination := by
  simp only [runTwoOperand, runOperands_undefined mas rs mad rd s hd]
  rfl

/-- A Class2 instruction is its handler on the resolved operand. -/
theorem runOneOperand_eq (mad : Mode) (rd : Reg) (line : Nat → State → State) (s : State) (hh : s.halted = false) :
    runOneOperand mad rd line s = runHandler line (s.afterOperand mad rd) := by
  by_cases hb : mad = .modeB
  · subst hb
    simp only [runOneOperand, if_true]
    rfl
  · simp only [runOneOperand, if_neg hb, runOperands_one mad rd s hh, runHandler_gotoPhase]

/-- A handler that writes a result does what `State.resultWritten` says (40_phase_control.md R154). -/
theorem runHandler_result (mad : Mode) (rd : Reg) (op : Word → Word → BitVec 4 → AluResult) (s : State)
    (hh : s.halted = false) :
    runHandler (resultStep mad rd op) s =
      s.resultWritten mad rd (op (s.destValue mad rd) s.t s.flag).rbus (op (s.destValue mad rd) s.t s.flag).flag := by
  obtain ⟨regs, pc, sp, flag, ir, mdr, adr, t, ivr, phase, impulse, pending, halted, reason, mem⟩ := s
  subst hh
  cases mad <;> cases pending <;> rfl

/-! ## What resolution leaves alone -/

@[simp] theorem State.afterOperand_reg (s : State) (m : Mode) (r q : Reg) : (s.afterOperand m r).reg q = s.reg q := rfl

@[simp] theorem State.afterOperand_memRead (s : State) (m : Mode) (r : Reg) (a : Word) :
    (s.afterOperand m r).memRead a = s.memRead a := rfl

@[simp] theorem State.afterOperand_halted (s : State) (m : Mode) (r : Reg) : (s.afterOperand m r).halted = s.halted := rfl

@[simp] theorem State.afterTwoOperands_halted (s : State) (mas : Mode) (rs : Reg) (mad : Mode) (rd : Reg) :
    (s.afterTwoOperands mas rs mad rd).halted = s.halted := rfl

/-- After the operand is resolved, `D` is the operand's value (40_phase_control.md R152). -/
theorem State.afterOperand_destValue (s : State) (m : Mode) (r : Reg) :
    (s.afterOperand m r).destValue m r = s.operandValue s.pc m r := by
  cases m <;> rfl

end Sys2Proof.Machine
end

