-- ==== Sys2Proof/Laws/Control.lean ====
section
/-! SUPPORT. What each shared operation of the controller does, said once: the handlers that only write FLAG, the branches,
the stack handlers, the interrupt entry and return, the Fetch phase, and one call of `advance()`. -/

namespace Sys2Proof.Machine

/-! ## Handlers -/

/-- A handler that only writes FLAG (45_class4_control.md section 1). -/
theorem runHandler_flag (f : BitVec 4 → BitVec 4) (s : State) (hh : s.halted = false) :
    runHandler (flagStep f) s = State.ended { s with flag := f s.flag } := by
  obtain ⟨regs, pc, sp, flag, ir, mdr, adr, t, ivr, phase, impulse, pending, halted, reason, mem⟩ := s
  subst hh
  cases pending <;> rfl

/-- A branch handler (44_class3_branches.md R270). -/
theorem runHandler_branch (cond : BitVec 4 → Bool) (disp : BitVec 8) (s : State) (hh : s.halted = false) :
    runHandler (branchStep cond disp) s =
      State.ended { s with pc := if cond s.flag then s.pc + sext16 disp else s.pc } := by
  have key : runHandler (branchStep cond disp) s = branchStep cond disp 1 ((s.gotoPhase .execute).tick) := by
    obtain ⟨regs, pc, sp, flag, ir, mdr, adr, t, ivr, phase, impulse, pending, halted, reason, mem⟩ := s
    subst hh
    cases hc : cond flag <;> cases pending <;> simp [runHandler, handlerLines, runPhase, branchStep, hc]
  rw [key]
  cases hc : cond s.flag <;> simp [branchStep, hc, State.ended, State.endInstruction, State.gotoPhase, State.tick, State.setPc]

/-- A push handler: SP moves down by 2 and the word goes there, by way of ADR and MDR (45_class4_control.md R303, R305).
The word may depend on anything but SP and the counter. -/
theorem runHandler_pushWord (value : State → Word) (s : State) (hh : s.halted = false)
    (hv : ∀ (u : State) (x : Word) (n : Nat) (p : Phase), value { u with sp := x, impulse := n, phase := p } = value u) :
    runHandler (pushWordStep value) s =
      State.ended { s with
        sp := s.sp - 2#16
        adr := s.sp - 2#16
        mdr := value s
        mem := Memory.writeWord s.mem (s.sp - 2#16) (value s) } := by
  rw [← hv s (s.sp - 2#16) 3 .execute]
  obtain ⟨regs, pc, sp, flag, ir, mdr, adr, t, ivr, phase, impulse, pending, halted, reason, mem⟩ := s
  subst hh
  cases pending <;> rfl

/-- The pop handler of PC: the word at SP goes to PC, by way of ADR and MDR, and SP moves up by 2
(45_class4_control.md R302, R304). -/
theorem runHandler_popPc (s : State) (hh : s.halted = false) :
    runHandler (popWordStep fun w u => u.setPc w) s =
      State.ended { s with pc := s.memRead s.sp, sp := s.sp + 2#16, adr := s.sp, mdr := s.memRead s.sp } := by
  obtain ⟨regs, pc, sp, flag, ir, mdr, adr, t, ivr, phase, impulse, pending, halted, reason, mem⟩ := s
  subst hh
  cases pending <;> rfl

/-- The pop handler of FLAG: the low 4 bits of the word at SP (45_class4_control.md R306). -/
theorem runHandler_popFlag (s : State) (hh : s.halted = false) :
    runHandler (popWordStep fun w u => u.setFlag (flagOfWord w)) s =
      State.ended { s with
        flag := flagOfWord (s.memRead s.sp)
        sp := s.sp + 2#16
        adr := s.sp
        mdr := s.memRead s.sp } := by
  obtain ⟨regs, pc, sp, flag, ir, mdr, adr, t, ivr, phase, impulse, pending, halted, reason, mem⟩ := s
  subst hh
  cases pending <;> rfl

/-- `pop` to memory, whose address operand fetch left in ADR: the word at SP goes there, by way of T and MDR
(43_class2_one_operand.md R245). -/
theorem runHandler_popMemory (mad : Mode) (rd : Reg) (s : State) (hh : s.halted = false) (hm : mad ≠ .modeB) :
    runHandler (popStep mad rd) s =
      State.ended { s with
        t := s.adr
        mdr := s.memRead s.sp
        sp := s.sp + 2#16
        mem := Memory.writeWord s.mem s.adr (s.memRead s.sp) } := by
  obtain ⟨regs, pc, sp, flag, ir, mdr, adr, t, ivr, phase, impulse, pending, halted, reason, mem⟩ := s
  subst hh
  cases mad
  case modeB => exact absurd rfl hm
  all_goals
    refine (runPhase_go (n := 1) rfl rfl rfl rfl (by exact Nat.lt_succ_self 1)).trans ?_
    refine (runPhase_go (n := 2) rfl rfl rfl rfl (by exact Nat.lt_succ_self 2)).trans ?_
    refine (runPhase_go (n := 3) rfl rfl rfl rfl (by exact Nat.lt_succ_self 3)).trans ?_
    refine (runPhase_go (n := 4) rfl rfl rfl rfl (by exact Nat.lt_succ_self 4)).trans ?_
    refine (runPhase_leave (n := 5) rfl rfl ?_).trans ?_
    · cases pending <;> nofun
    · rfl

/-! ## Interrupt entry and return -/

/-- The whole interrupt entry: FLAG at SP - 2, PC at SP - 4, and execution goes on at IVR (60_exceptions.md R351 to R353). -/
theorem runPhase_interrupt (s : State) (hh : s.halted = false) (hi : s.impulse = 1) (hp : s.phase = .interrupt) :
    runPhase interruptStep 8 s =
      { s with
        mem := Memory.writeWord (Memory.writeWord s.mem (s.sp - 2#16) (flagWord s.flag)) (s.sp - 2#16 - 2#16) s.pc
        sp := s.sp - 2#16 - 2#16
        adr := s.sp - 2#16 - 2#16
        mdr := s.pc
        pc := s.ivr
        phase := .fetch
        impulse := 1 } := by
  obtain ⟨regs, pc, sp, flag, ir, mdr, adr, t, ivr, phase, impulse, pending, halted, reason, mem⟩ := s
  subst hh hi hp
  refine (runPhase_go (n := 1) rfl rfl rfl rfl (by exact Nat.lt_succ_self 1)).trans ?_
  refine (runPhase_go (n := 2) rfl rfl rfl rfl (by exact Nat.lt_succ_self 2)).trans ?_
  refine (runPhase_go (n := 3) rfl rfl rfl rfl (by exact Nat.lt_succ_self 3)).trans ?_
  refine (runPhase_go (n := 4) rfl rfl rfl rfl (by exact Nat.lt_succ_self 4)).trans ?_
  refine (runPhase_go (n := 5) rfl rfl rfl rfl (by exact Nat.lt_succ_self 5)).trans ?_
  refine (runPhase_go (n := 6) rfl rfl rfl rfl (by exact Nat.lt_succ_self 6)).trans ?_
  refine (runPhase_go (n := 7) rfl rfl rfl rfl (by exact Nat.lt_succ_self 7)).trans ?_
  exact runPhase_leave (n := 8) rfl rfl nofun

/-- The handler of `reti`: PC from SP, FLAG from SP + 2, `pending` cleared (60_exceptions.md R355). -/
theorem runHandler_interruptReturn (s : State) (hh : s.halted = false) :
    runHandler interruptReturnStep s =
      { s with
        pc := s.memRead s.sp
        flag := flagOfWord (s.memRead (s.sp + 2#16))
        sp := s.sp + 2#16 + 2#16
        adr := s.sp + 2#16
        mdr := s.memRead (s.sp + 2#16)
        pending := false
        phase := .fetch
        impulse := 1 } := by
  obtain ⟨regs, pc, sp, flag, ir, mdr, adr, t, ivr, phase, impulse, pending, halted, reason, mem⟩ := s
  subst hh
  rfl

/-! ## Fetch -/

/-- The state when the word at PC has been read into IR and PC has moved past it, before it is decoded
(40_phase_control.md R139, R140). -/
def State.fetched (s : State) : State :=
  { s with adr := s.pc, ir := s.memRead s.pc, pc := s.pc + 2#16, impulse := 4 }

/-- The whole Fetch phase from impulse 1 (40_phase_control.md R139 to R141). -/
theorem runFetch_eq (s : State) (hh : s.halted = false) (hp : s.phase = .fetch) (hi : s.impulse = 1) :
    runFetch s =
      match decodeWord (s.memRead s.pc) with
      | .ok _ => s.fetched.gotoPhase (phaseAfterFetch (s.memRead s.pc))
      | .error _ => s.fetched.halt .illegalInstruction := by
  obtain ⟨regs, pc, sp, flag, ir, mdr, adr, t, ivr, phase, impulse, pending, halted, reason, mem⟩ := s
  subst hh hp hi
  have two : runFetch ⟨regs, pc, sp, flag, ir, mdr, adr, t, ivr, .fetch, 1, pending, false, reason, mem⟩ =
      runPhase fetchStep 1 ⟨regs, pc + 2#16, sp, flag, Memory.readWord mem pc, mdr, pc, t, ivr, .fetch, 3, pending,
        false, reason, mem⟩ := rfl
  rw [two]
  simp only [State.memRead]
  cases hd : decodeWord (Memory.readWord mem pc) with
  | error e => simp [runPhase, fetchStep, State.tick, hd, State.halt, State.fetched, State.memRead]
  | ok i => simp [runPhase, fetchStep, State.tick, hd, State.gotoPhase, State.fetched, State.memRead]

end Sys2Proof.Machine
end

