-- ==== Sys2Proof/Laws/Decode.lean ====
section
/-! SUPPORT. The fields of an encoded word: each reads back as it was written, for the formats of 30_encoding.md R93 to R96. -/

namespace Sys2Proof

/-- A field that lies inside the high part of a concatenation is a field of that part. -/
theorem extract_append_high {m n w : Nat} (x : BitVec m) (y : BitVec n) (k : Nat) :
    (x ++ y).extractLsb' (n + k) w = x.extractLsb' k w := by
  refine BitVec.eq_of_getLsbD_eq fun i hi => ?_
  have h : ¬ n + k + i < n := by omega
  have h2 : n + k + i - n = k + i := by omega
  simp [BitVec.getLsbD_append, hi, h, h2]

/-- A field that lies inside the low part of a concatenation is a field of that part. -/
theorem extract_append_low {m n w : Nat} (x : BitVec m) (y : BitVec n) (k : Nat) (h : k + w ≤ n) :
    (x ++ y).extractLsb' k w = y.extractLsb' k w := by
  refine BitVec.eq_of_getLsbD_eq fun i hi => ?_
  have hlt : k + i < n := by omega
  simp [BitVec.getLsbD_append, hi, hlt]

/-- The field that is a whole value. -/
theorem extract_whole {w : Nat} (x : BitVec w) : x.extractLsb' 0 w = x := by
  refine BitVec.eq_of_getLsbD_eq fun i hi => ?_
  simp [hi]

/-- The top bit of a concatenation is the top bit of its high part. -/
theorem msb_append_high {m n : Nat} (x : BitVec (m + 1)) (y : BitVec n) : (x ++ y).msb = x.msb := by
  simp [BitVec.msb_append]

/-- A mode's bits name it (30_encoding.md R97). -/
theorem Mode.ofBits_bits (m : Mode) : Mode.ofBits m.bits = m := by cases m <;> rfl

/-- A mode field's bits are the bits of the mode it names (30_encoding.md R97). -/
theorem Mode.bits_ofBits (b : BitVec 2) : (Mode.ofBits b).bits = b := by
  have h : ∀ b : BitVec 2, (Mode.ofBits b).bits = b := by decide
  exact h b

theorem decodeWord_class1 {w : Word} (h : classOf w = some .class1) : decodeWord w = decodeClass1 w := by
  simp [decodeWord, h]

theorem decodeWord_class2 {w : Word} (h : classOf w = some .class2) : decodeWord w = decodeClass2 w := by
  simp [decodeWord, h]

theorem decodeWord_class3 {w : Word} (h : classOf w = some .class3) : decodeWord w = decodeClass3 w := by
  simp [decodeWord, h]

theorem decodeWord_class4 {w : Word} (h : classOf w = some .class4) : decodeWord w = decodeClass4 w := by
  simp [decodeWord, h]

section Class1

variable (o : BitVec 3) (mas : Mode) (rs : Reg) (mad : Mode) (rd : Reg)

theorem classOf_encodeClass1 : classOf (encodeClass1 o mas rs mad rd) = some .class1 := by
  have h : (encodeClass1 o mas rs mad rd).msb = false :=
    (msb_append_high (m := 11) _ _).trans <| (msb_append_high (m := 9) _ _).trans <| (msb_append_high (m := 5) _ _).trans <|
      (msb_append_high (m := 3) _ _).trans <| (msb_append_high (m := 0) _ _).trans rfl
  simp [classOf, h]

theorem fieldOpc1_encodeClass1 : fieldOpc1 (encodeClass1 o mas rs mad rd) = o := by
  unfold fieldOpc1 encodeClass1
  rw [extract_append_high (n := 4) (k := 8), extract_append_high (n := 2) (k := 6), extract_append_high (n := 4) (k := 2),
    extract_append_high (n := 2) (k := 0), extract_append_low _ _ _ (by decide), extract_whole]

theorem fieldMas_encodeClass1 : fieldMas (encodeClass1 o mas rs mad rd) = mas := by
  unfold fieldMas encodeClass1
  rw [extract_append_high (n := 4) (k := 6), extract_append_high (n := 2) (k := 4), extract_append_high (n := 4) (k := 0),
    extract_append_low _ _ _ (by decide), extract_whole, Mode.ofBits_bits]

theorem fieldRs_encodeClass1 : fieldRs (encodeClass1 o mas rs mad rd) = rs := by
  unfold fieldRs encodeClass1
  rw [extract_append_high (n := 4) (k := 2), extract_append_high (n := 2) (k := 0), extract_append_low _ _ _ (by decide),
    extract_whole]

theorem fieldMad_encodeClass1 : fieldMad (encodeClass1 o mas rs mad rd) = mad := by
  unfold fieldMad encodeClass1
  rw [extract_append_high (n := 4) (k := 0), extract_append_low _ _ _ (by decide), extract_whole, Mode.ofBits_bits]

theorem fieldRd_encodeClass1 : fieldRd (encodeClass1 o mas rs mad rd) = rd := by
  unfold fieldRd encodeClass1
  rw [extract_append_low _ _ _ (by decide), extract_whole]

end Class1

section Class2

variable (o : BitVec 7) (mad : Mode) (rd : Reg)

theorem classOf_encodeClass2 : classOf (encodeClass2 o mad rd) = some .class2 := by
  have h : (encodeClass2 o mad rd).msb = true :=
    (msb_append_high (m := 11) _ _).trans <| (msb_append_high (m := 9) _ _).trans <| (msb_append_high (m := 2) _ _).trans rfl
  have h2 : (encodeClass2 o mad rd).extractLsb' 13 2 = 0#2 := by
    unfold encodeClass2
    rw [extract_append_high (n := 4) (k := 9), extract_append_high (n := 2) (k := 7), extract_append_high (n := 7) (k := 0)]
    rfl
  simp [classOf, h, h2]

theorem fieldOpc2_encodeClass2 : fieldOpc2 (encodeClass2 o mad rd) = o := by
  unfold fieldOpc2 encodeClass2
  rw [extract_append_high (n := 4) (k := 2), extract_append_high (n := 2) (k := 0), extract_append_low _ _ _ (by decide),
    extract_whole]

theorem fieldMad_encodeClass2 : fieldMad (encodeClass2 o mad rd) = mad := by
  unfold fieldMad encodeClass2
  rw [extract_append_high (n := 4) (k := 0), extract_append_low _ _ _ (by decide), extract_whole, Mode.ofBits_bits]

theorem fieldRd_encodeClass2 : fieldRd (encodeClass2 o mad rd) = rd := by
  unfold fieldRd encodeClass2
  rw [extract_append_low _ _ _ (by decide), extract_whole]

end Class2

section Class3

variable (o : BitVec 5) (disp : BitVec 8)

theorem classOf_encodeClass3 : classOf (encodeClass3 o disp) = some .class3 := by
  have h : (encodeClass3 o disp).msb = true :=
    (msb_append_high (m := 7) _ _).trans <| (msb_append_high (m := 2) _ _).trans rfl
  have h2 : (encodeClass3 o disp).extractLsb' 13 2 = 2#2 := by
    unfold encodeClass3
    rw [extract_append_high (n := 8) (k := 5), extract_append_high (n := 5) (k := 0)]
    rfl
  simp [classOf, h, h2]

theorem fieldOpc3_encodeClass3 : fieldOpc3 (encodeClass3 o disp) = o := by
  unfold fieldOpc3 encodeClass3
  rw [extract_append_high (n := 8) (k := 0), extract_append_low _ _ _ (by decide), extract_whole]

theorem fieldDisp_encodeClass3 : fieldDisp (encodeClass3 o disp) = disp := by
  unfold fieldDisp encodeClass3
  rw [extract_append_low _ _ _ (by decide), extract_whole]

end Class3

theorem classOf_encodeClass4 (o : BitVec 13) : classOf (encodeClass4 o) = some .class4 := by
  have h : (encodeClass4 o).msb = true := (msb_append_high (m := 2) _ _).trans rfl
  have h2 : (encodeClass4 o).extractLsb' 13 2 = 3#2 := by
    unfold encodeClass4
    rw [extract_append_high (n := 13) (k := 0)]
    rfl
  simp [classOf, h, h2]

theorem fieldOpc4_encodeClass4 (o : BitVec 13) : fieldOpc4 (encodeClass4 o) = o := by
  unfold fieldOpc4 encodeClass4
  rw [extract_append_low _ _ _ (by decide), extract_whole]

end Sys2Proof
end

