-- ==== Sys2Proof/Laws/Lines.lean ====
section
/-! SUPPORT. What one line of each phase's shared tables can change: every other field is as it was. -/

namespace Sys2Proof.Machine

/-- A line of source resolution changes only ADR, MDR, PC, T and the counter, or halts (40_phase_control.md R143 to R146). -/
theorem sourceStep_touches (mas : Mode) (rs : Reg) (n : Nat) (s : State) :
    ∃ a m p t k h r, sourceStep mas rs n s =
      { s with adr := a, mdr := m, pc := p, t := t, impulse := k, halted := h, reason := r } := by
  unfold sourceStep
  split <;> split <;> exact ⟨_, _, _, _, _, _, _, rfl⟩

/-- A line of destination resolution changes only ADR, MDR, PC, the phase and the counter, or halts (40_phase_control.md R147
to R150). -/
theorem destStep_touches (mad : Mode) (rd : Reg) (n : Nat) (s : State) :
    ∃ a m p q k h r, destStep mad rd n s =
      { s with adr := a, mdr := m, pc := p, phase := q, impulse := k, halted := h, reason := r } := by
  unfold destStep
  split <;> split <;> exact ⟨_, _, _, _, _, _, _, rfl⟩

/-- A line of OperandFetch changes only ADR, MDR, PC, T, the phase and the counter, or halts (40_phase_control.md R142). -/
theorem operandFetchStep_touches (n : Nat) (s : State) :
    ∃ a m p t q k h r, operandFetchStep n s =
      { s with adr := a, mdr := m, pc := p, t := t, phase := q, impulse := k, halted := h, reason := r } := by
  unfold operandFetchStep operandStep
  split
  · exact ⟨_, _, _, _, _, _, _, _, rfl⟩
  split
  · obtain ⟨a, m, p, q, k, h, r, e⟩ := destStep_touches (fieldMad s.ir) (fieldRd s.ir) 6 (s.setImpulse 7)
    exact ⟨a, m, p, s.t, q, k, h, r, e⟩
  split
  · obtain ⟨a, m, p, t, k, h, r, e⟩ := sourceStep_touches (fieldMas s.ir) (fieldRs s.ir) n s
    exact ⟨a, m, p, t, s.phase, k, h, r, e⟩
  split
  · obtain ⟨a, m, p, q, k, h, r, e⟩ := destStep_touches (fieldMad s.ir) (fieldRd s.ir) n s
    exact ⟨a, m, p, s.t, q, k, h, r, e⟩
  · exact ⟨_, _, _, _, _, _, _, _, rfl⟩

/-- A line of Fetch changes only ADR, IR, PC, the phase and the counter, or halts (40_phase_control.md R139 to R141). -/
theorem fetchStep_touches (n : Nat) (s : State) :
    ∃ a i p q k h r, fetchStep n s =
      { s with adr := a, ir := i, pc := p, phase := q, impulse := k, halted := h, reason := r } := by
  unfold fetchStep
  split
  · exact ⟨_, _, _, _, _, _, _, rfl⟩
  · exact ⟨_, _, _, _, _, _, _, rfl⟩
  · split <;> exact ⟨_, _, _, _, _, _, _, rfl⟩
  · exact ⟨_, _, _, _, _, _, _, rfl⟩

/-- A line of interrupt entry changes only SP, ADR, MDR, PC, the phase, the counter and the word at ADR, or halts
(60_exceptions.md R351). -/
theorem interruptStep_touches (n : Nat) (s : State) :
    ∃ x a m p q k h r, ∃ b : Bool, interruptStep n s =
      { s with
        sp := x, adr := a, mdr := m, pc := p, phase := q, impulse := k, halted := h, reason := r
        mem := if b then Memory.writeWord s.mem s.adr s.mdr else s.mem } := by
  unfold interruptStep
  split <;>
    first
    | exact ⟨_, _, _, _, _, _, _, _, false, rfl⟩
    | exact ⟨_, _, _, _, _, _, _, _, true, rfl⟩

end Sys2Proof.Machine
end

