-- ==== Sys2Proof/Tests/Slice0.lean ====
section
/-! SUPPORT. Tests of one step or one operation, with expected values from 95_test_vectors.md (the section is named at each
group) or computed by hand from the rules, and a witness for the hypotheses of every statement that has some. -/

namespace Sys2Proof.Tests

open Sys2Proof.Machine

/-! ## Helpers -/

/-- Reset, with words stored at rising addresses from `pc`, the listed memory bytes and registers, and PC, SP and FLAG. -/
def start (pc : Nat) (words : List Nat) (regs mem : List (Nat × Nat)) (sp flag : Nat) : State :=
  let code := words.flatMap fun w => [BitVec.ofNat 8 w, BitVec.ofNat 8 (w / 256)]
  let m := mem.foldl (fun m c => Memory.write m c.1 (BitVec.ofNat 8 c.2)) (Memory.writeBytes [] pc code)
  let s := { State.reset with
    pc := BitVec.ofNat 16 pc, sp := BitVec.ofNat 16 sp, flag := BitVec.ofNat 4 flag, mem := m }
  regs.foldl (fun s c => s.setReg (Fin.ofNat 16 c.1) (BitVec.ofNat 16 c.2)) s

/-- The outcome is a next state with this property. -/
def after (o : Host.Outcome State Fault Refusal) (p : State → Bool) : Bool :=
  match o with
  | .next t => p t
  | .fault _ => false
  | .refused _ => false

theorem exists_after {o : Host.Outcome State Fault Refusal} {p : State → Bool} (h : after o p = true) :
    ∃ t, o = .next t ∧ p t = true := by
  cases o with
  | next t => exact ⟨t, rfl, h⟩
  | fault f => cases f
  | refused r => exact absurd h Bool.false_ne_true

/-- One step from `s` leaves PC, SP and FLAG so, with these registers and memory bytes, not halted. -/
def leaves (s : State) (pc sp flag : Nat) (regs mem : List (Nat × Nat)) : Bool :=
  after (step s) fun t =>
    t.pc.toNat == pc && t.sp.toNat == sp && t.flag.toNat == flag && t.halted == false &&
      regs.all (fun c => (t.reg (Fin.ofNat 16 c.1)).toNat == c.2) &&
      mem.all (fun c => (Memory.read t.mem c.1).toNat == c.2)

/-! ## Decoding: words written out from the bit patterns of 30_encoding.md R93 to R104, one for every constructor -/

/-- `0ooo SSrr rrMM dddd`. -/
theorem test_decode_class1 :
    decodeWord 0b0000000000011111#16 = .ok (.mov .modeA 0 .modeB 15) ∧
    decodeWord 0b0001110001100010#16 = .ok (.add .modeD 1 .modeC 2) ∧
    decodeWord 0b0010101111000000#16 = .ok (.sub .modeC 15 .modeA 0) ∧
    decodeWord 0b0011010111111000#16 = .ok (.cmp .modeB 7 .modeD 8) ∧
    decodeWord 0b0100010011011100#16 = .ok (.and .modeB 3 .modeB 12) ∧
    decodeWord 0b0101000000110101#16 = .ok (.or .modeA 0 .modeD 5) ∧
    decodeWord 0b0110111111111111#16 = .ok (.xor .modeD 15 .modeD 15) := by
  decide

/-- `100o oooo ooMM dddd`. -/
theorem test_decode_class2 :
    decodeWord 0b1000000000011111#16 = .ok (.clr .modeB 15) ∧
    decodeWord 0b1000000001101110#16 = .ok (.neg .modeC 14) ∧
    decodeWord 0b1000000010111101#16 = .ok (.inc .modeD 13) ∧
    decodeWord 0b1000000011001100#16 = .ok (.dec .modeA 12) ∧
    decodeWord 0b1000000100011011#16 = .ok (.asl .modeB 11) ∧
    decodeWord 0b1000000101101010#16 = .ok (.asr .modeC 10) ∧
    decodeWord 0b1000000110111001#16 = .ok (.lsr .modeD 9) ∧
    decodeWord 0b1000000111001000#16 = .ok (.rol .modeA 8) ∧
    decodeWord 0b1000001000010111#16 = .ok (.ror .modeB 7) ∧
    decodeWord 0b1000001001100110#16 = .ok (.rlc .modeC 6) ∧
    decodeWord 0b1000001010110101#16 = .ok (.rrc .modeD 5) ∧
    decodeWord 0b1000001011000100#16 = .ok (.jmp .modeA 4) ∧
    decodeWord 0b1000001100010011#16 = .ok (.call .modeB 3) ∧
    decodeWord 0b1000001101100010#16 = .ok (.push .modeC 2) ∧
    decodeWord 0b1000001110110001#16 = .ok (.pop .modeD 1) := by
  decide

/-- `110o oooo dddd dddd`. -/
theorem test_decode_class3 :
    decodeWord 0b1100000011111110#16 = .ok (.br 0xFE#8) ∧
    decodeWord 0b1100000100000100#16 = .ok (.bne 0x04#8) ∧
    decodeWord 0b1100001011111100#16 = .ok (.beq 0xFC#8) ∧
    decodeWord 0b1100001100010000#16 = .ok (.bpl 0x10#8) ∧
    decodeWord 0b1100010000000010#16 = .ok (.bcs 0x02#8) ∧
    decodeWord 0b1100010110000000#16 = .ok (.bcc 0x80#8) ∧
    decodeWord 0b1100011001111111#16 = .ok (.bvs 0x7F#8) ∧
    decodeWord 0b1100011100000000#16 = .ok (.bvc 0x00#8) := by
  decide

/-- `111o oooo oooo oooo`. -/
theorem test_decode_class4 :
    decodeWord 0b1110000000000000#16 = .ok .clc ∧
    decodeWord 0b1110000000000001#16 = .ok .clv ∧
    decodeWord 0b1110000000000010#16 = .ok .clz ∧
    decodeWord 0b1110000000000011#16 = .ok .cls ∧
    decodeWord 0b1110000000000100#16 = .ok .sec ∧
    decodeWord 0b1110000000000101#16 = .ok .sev ∧
    decodeWord 0b1110000000000110#16 = .ok .sez ∧
    decodeWord 0b1110000000000111#16 = .ok .ses ∧
    decodeWord 0b1110000000001000#16 = .ok .ccc ∧
    decodeWord 0b1110000000001001#16 = .ok .scc ∧
    decodeWord 0b1110000000001010#16 = .ok .nop ∧
    decodeWord 0b1110000000001011#16 = .ok .ret ∧
    decodeWord 0b1110000000001100#16 = .ok .reti ∧
    decodeWord 0b1110000000001101#16 = .ok .halt ∧
    decodeWord 0b1110000000001110#16 = .ok .wait ∧
    decodeWord 0b1110000000001111#16 = .ok .pushpc ∧
    decodeWord 0b1110000000010000#16 = .ok .poppc ∧
    decodeWord 0b1110000000010001#16 = .ok .pushflag ∧
    decodeWord 0b1110000000010010#16 = .ok .popflag := by
  decide

/-- Both ends of each illegal range and the legal words beside them (30_encoding.md R105, 95_test_vectors.md section 2.6): the clauses of IllegalWordsAreTheFiveRanges. -/
theorem test_decode_illegal_edges :
    decodeWord 0x6FFF#16 = .ok (.xor .modeD 15 .modeD 15) ∧
    decodeWord 0x7000#16 = .error .illegalClass1 ∧
    decodeWord 0x7FFF#16 = .error .illegalClass1 ∧
    decodeWord 0x8000#16 = .ok (.clr .modeA 0) ∧
    decodeWord 0x83BF#16 = .ok (.pop .modeD 15) ∧
    decodeWord 0x83C0#16 = .error .illegalClass2 ∧
    decodeWord 0x9FFF#16 = .error .illegalClass2 ∧
    decodeWord 0xA000#16 = .error .noClass ∧
    decodeWord 0xBFFF#16 = .error .noClass ∧
    decodeWord 0xC000#16 = .ok (.br 0x00#8) ∧
    decodeWord 0xC7FF#16 = .ok (.bvc 0xFF#8) ∧
    decodeWord 0xC800#16 = .error .illegalClass3 ∧
    decodeWord 0xDFFF#16 = .error .illegalClass3 ∧
    decodeWord 0xE000#16 = .ok .clc ∧
    decodeWord 0xE012#16 = .ok .popflag ∧
    decodeWord 0xE013#16 = .error .illegalClass4 ∧
    decodeWord 0xFFFF#16 = .error .illegalClass4 := by
  decide

/-- `add 2(R1), (R2)` is the bytes 62 1C 02 00 (95_test_vectors.md section 2.2, word 1C62). -/
theorem test_encode_bytes :
    encodeBytes (.add .modeD 1 .modeC 2) [0x0002#16] = [0x62#8, 0x1C#8, 0x02#8, 0x00#8] := by
  decide

/-- Too few bytes are refused by name. -/
theorem test_decode_truncated : decode [0x10#8] = .error .truncated := by
  decide

/-- The host's question: an instruction with more bits than its word keeps its word, in the low 16 bits. -/
theorem test_decodeTableWord :
    decodeTableWord 16 0x1411 = some (.add .modeB 0 .modeB 1) ∧
    decodeTableWord 48 0x000400021C72 = some (.add .modeD 1 .modeD 2) ∧
    decodeTableWord 16 0xE013 = none := by
  decide

/-! ## WellFormed: the check refuses each ill-formed term (30_encoding.md R106) -/

theorem test_wellFormed_refuses :
    Instr.wellFormed (.mov .modeD 1 .modeB 1) = false ∧ Instr.wellFormed (.add .modeD 0 .modeB 15) = false ∧
    Instr.wellFormed (.sub .modeD 2 .modeB 3) = false ∧ Instr.wellFormed (.cmp .modeD 15 .modeB 0) = false ∧
    Instr.wellFormed (.and .modeD 4 .modeB 5) = false ∧ Instr.wellFormed (.or .modeD 6 .modeB 7) = false ∧
    Instr.wellFormed (.xor .modeD 8 .modeB 9) = false := by
  decide

/-- The neighbours of the refused pair. -/
theorem test_wellFormed_accepts :
    Instr.wellFormed (.mov .modeD 1 .modeC 1) = true ∧ Instr.wellFormed (.mov .modeC 1 .modeB 1) = true ∧
    Instr.wellFormed (.mov .modeB 1 .modeD 1) = true ∧ Instr.wellFormed (.pop .modeB 0) = true := by
  decide

/-! ## The ALU (95_test_vectors.md section 2.1) -/

/-- D, S, RBUS and FLAG of every ADD row. -/
theorem test_aluAdd :
    [(0x0000#16, 0x0000#16, 0x0000#16, 0b0100#4), (0xFFFF#16, 0x0001#16, 0x0000#16, 0b1100#4),
        (0xFFFF#16, 0xFFFF#16, 0xFFFE#16, 0b1010#4), (0x7FFF#16, 0x0001#16, 0x8000#16, 0b0011#4),
        (0x8000#16, 0x8000#16, 0x0000#16, 0b1101#4), (0x7FFF#16, 0x7FFF#16, 0xFFFE#16, 0b0011#4),
        (0x8000#16, 0x7FFF#16, 0xFFFF#16, 0b0010#4), (0xFFFF#16, 0x8000#16, 0x7FFF#16, 0b1001#4)].all (fun r =>
      aluAdd r.1 r.2.1 == { rbus := r.2.2.1, flag := r.2.2.2 }) = true := by
  decide

/-- D, S, RBUS and FLAG of every SUB row. -/
theorem test_aluSub :
    [(0x0000#16, 0x0001#16, 0xFFFF#16, 0b0010#4), (0x0005#16, 0x0005#16, 0x0000#16, 0b1100#4),
        (0x8000#16, 0x0001#16, 0x7FFF#16, 0b1001#4), (0x7FFF#16, 0xFFFF#16, 0x8000#16, 0b0011#4),
        (0x7FFF#16, 0x8000#16, 0xFFFF#16, 0b0011#4), (0x0000#16, 0x8000#16, 0x8000#16, 0b0011#4),
        (0xFFFF#16, 0x0000#16, 0xFFFF#16, 0b1010#4), (0x000A#16, 0x0003#16, 0x0007#16, 0b1000#4)].all (fun r =>
      aluSub r.1 r.2.1 == { rbus := r.2.2.1, flag := r.2.2.2 }) = true := by
  decide

/-! ## Class1 (95_test_vectors.md sections 1 and 2.2) -/

theorem test_mov_overwrites_its_extension_word :
    leaves (start 0 [0x0000, 0x1111, 0x2222] [] [] 0 0) 6 0 0 [] [(2, 0x11), (3, 0x11), (4, 0x11), (5, 0x11)] = true := by
  decide

theorem test_mov_odd_address :
    leaves (start 0 [0x0021, 0xABCD] [(1, 0x101)] [] 0 0) 4 0 2 [(1, 0x101)] [(0x101, 0xcd), (0x102, 0xab)] = true := by
  decide

theorem test_add_overflow :
    leaves (start 0 [0x1411] [(0, 0x7fff), (1, 1)] [] 0 0) 2 0 3 [(0, 0x7fff), (1, 0x8000)] [] = true := by
  decide

theorem test_add_indexed :
    leaves (start 0 [0x1C62, 0x0002] [(1, 0x200), (2, 0x300)] [(0x202, 0x34), (0x203, 0x12), (0x300, 1)] 0 0) 4 0 0 [(1, 0x200), (2, 0x300)] [(0x300, 0x35), (0x301, 0x12)] = true := by
  decide

theorem test_sub_borrow :
    leaves (start 0 [0x2411] [(0, 1), (1, 0)] [] 0 0) 2 0 2 [(0, 1), (1, 0xffff)] [] = true := by
  decide

theorem test_sub_indirect :
    leaves (start 0 [0x2811] [(0, 0x100), (1, 10)] [(0x100, 3)] 0 0) 2 0 8 [(0, 0x100), (1, 7)] [] = true := by
  decide

theorem test_cmp_writes_no_register :
    leaves (start 0 [0x3012, 0x8000] [(2, 0x7fff)] [] 0 0) 4 0 3 [(2, 0x7fff)] [] = true := by
  decide

theorem test_and_keeps_CV :
    leaves (start 0 [0x4411] [(0, 0xff00), (1, 0xf0f)] [] 0 9) 2 0 9 [(1, 0xf00)] [] = true := by
  decide

theorem test_and_indexed :
    leaves (start 0 [0x4431, 0x0004] [(0, 0xff), (1, 0x100)] [(0x104, 0x34), (0x105, 0x12)] 0 0) 4 0 0 [] [(0x104, 0x34), (0x105, 0)] = true := by
  decide

theorem test_or :
    leaves (start 0 [0x5411] [(0, 0x8000), (1, 1)] [] 0 0) 2 0 2 [(0, 0x8000), (1, 0x8001)] [] = true := by
  decide

theorem test_xor_zero :
    leaves (start 0 [0x6451] [(1, 0x1234)] [] 0 0) 2 0 4 [(1, 0)] [] = true := by
  decide

/-! ## Class2 (95_test_vectors.md section 2.3) -/

theorem test_clr_indexed :
    leaves (start 0 [0x8031, 0x0006] [(1, 0x100)] [(0x106, 0x55), (0x107, 0x55)] 0 0) 4 0 4 [] [(0x106, 0), (0x107, 0)] = true := by
  decide

theorem test_neg_zero :
    leaves (start 0 [0x8050] [] [] 0 0) 2 0 12 [(0, 0)] [] = true := by
  decide

theorem test_neg_most_negative :
    leaves (start 0 [0x8050] [(0, 0x8000)] [] 0 0) 2 0 3 [(0, 0x8000)] [] = true := by
  decide

theorem test_inc_indirect_wraps :
    leaves (start 0 [0x80A0] [(0, 0x100)] [(0x100, 0xff), (0x101, 0xff)] 0 0) 2 0 12 [(0, 0x100)] [(0x100, 0), (0x101, 0)] = true := by
  decide

theorem test_dec_most_negative :
    leaves (start 0 [0x80D0] [(0, 0x8000)] [] 0 0) 2 0 9 [(0, 0x7fff)] [] = true := by
  decide

theorem test_asl_extension_word :
    leaves (start 0 [0x8100, 0x4001] [] [] 0 0) 4 0 2 [] [(2, 2), (3, 0x80)] = true := by
  decide

theorem test_asl_keeps_V :
    leaves (start 0 [0x8110] [(0, 1)] [] 0 1) 2 0 1 [(0, 2)] [] = true := by
  decide

theorem test_asr :
    leaves (start 0 [0x8150] [(0, 0x8001)] [] 0 0) 2 0 10 [(0, 0xc000)] [] = true := by
  decide

theorem test_lsr :
    leaves (start 0 [0x8190] [(0, 0x8001)] [] 0 0) 2 0 8 [(0, 0x4000)] [] = true := by
  decide

theorem test_rol :
    leaves (start 0 [0x81D0] [(0, 0x8001)] [] 0 0) 2 0 8 [(0, 3)] [] = true := by
  decide

theorem test_ror :
    leaves (start 0 [0x8210] [(0, 1)] [] 0 0) 2 0 10 [(0, 0x8000)] [] = true := by
  decide

theorem test_rlc :
    leaves (start 0 [0x8250] [(0, 0x8000)] [] 0 8) 2 0 8 [(0, 1)] [] = true := by
  decide

theorem test_rrc :
    leaves (start 0 [0x8290] [(0, 2)] [] 0 8) 2 0 2 [(0, 0x8001)] [] = true := by
  decide

theorem test_jmp_immediate :
    leaves (start 0 [0x82C0, 0x0100] [] [] 0 5) 0x100 0 5 [] [] = true := by
  decide

theorem test_jmp_indirect :
    leaves (start 0 [0x82E3] [(3, 0x20)] [(0x20, 0x10)] 0 5) 0x10 0 5 [(3, 0x20)] [] = true := by
  decide

theorem test_call_immediate :
    leaves (start 0 [0x8300, 0x0100] [] [] 0 5) 0x100 0xfffe 5 [] [(0xfffe, 4), (0xffff, 0)] = true := by
  decide

theorem test_call_register :
    leaves (start 0 [0x8313] [(3, 0x10)] [] 0 0) 0x10 0xfffe 0 [(3, 0x10)] [(0xfffe, 2), (0xffff, 0)] = true := by
  decide

theorem test_push_register :
    leaves (start 0 [0x8351] [(1, 0xbeef)] [] 0 5) 2 0xfffe 5 [(1, 0xbeef)] [(0xfffe, 0xef), (0xffff, 0xbe)] = true := by
  decide

theorem test_push_immediate :
    leaves (start 0 [0x8340, 0x1234] [] [] 0 0) 4 0xfffe 0 [] [(0xfffe, 0x34), (0xffff, 0x12)] = true := by
  decide

theorem test_pop_register :
    leaves (start 0 [0x8392] [] [(0xfffe, 0xef), (0xffff, 0xbe)] 0xfffe 5) 2 0 5 [(2, 0xbeef)] [] = true := by
  decide

theorem test_pop_indirect :
    leaves (start 0 [0x83A1] [(1, 0x100)] [(0xfffe, 0xcd), (0xffff, 0xab)] 0xfffe 5) 2 0 5 [(1, 0x100)] [(0x100, 0xcd), (0x101, 0xab)] = true := by
  decide

/-! ## Class3 (95_test_vectors.md section 2.4) -/

theorem test_br_to_itself :
    leaves (start 0x10 [0xC0FE] [] [] 0 0) 0x10 0 0 [] [] = true := by
  decide

theorem test_bne_taken :
    leaves (start 0x20 [0xC104] [] [] 0 0) 0x26 0 0 [] [] = true := by
  decide

theorem test_bne_not_taken :
    leaves (start 0x20 [0xC104] [] [] 0 4) 0x22 0 4 [] [] = true := by
  decide

theorem test_beq_taken_backwards :
    leaves (start 0x20 [0xC2FC] [] [] 0 4) 0x1e 0 4 [] [] = true := by
  decide

theorem test_bpl_taken :
    leaves (start 0 [0xC310] [] [] 0 0) 0x12 0 0 [] [] = true := by
  decide

theorem test_bpl_not_taken :
    leaves (start 0 [0xC310] [] [] 0 2) 2 0 2 [] [] = true := by
  decide

theorem test_bcs_taken :
    leaves (start 0 [0xC402] [] [] 0 8) 4 0 8 [] [] = true := by
  decide

theorem test_bcc_not_taken :
    leaves (start 0 [0xC502] [] [] 0 8) 2 0 8 [] [] = true := by
  decide

theorem test_bvs_odd_target :
    leaves (start 0 [0xC67F] [] [] 0 1) 0x81 0 1 [] [] = true := by
  decide

theorem test_bvc_wraps_below_zero :
    leaves (start 0 [0xC780] [] [] 0 0) 0xff82 0 0 [] [] = true := by
  decide

/-! ## Class4 (95_test_vectors.md section 2.5) -/

theorem test_clc :
    leaves (start 0 [0xE000] [] [] 0 15) 2 0 7 [] [] = true := by
  decide

theorem test_clv :
    leaves (start 0 [0xE001] [] [] 0 15) 2 0 14 [] [] = true := by
  decide

theorem test_clz :
    leaves (start 0 [0xE002] [] [] 0 15) 2 0 11 [] [] = true := by
  decide

theorem test_cls :
    leaves (start 0 [0xE003] [] [] 0 15) 2 0 13 [] [] = true := by
  decide

theorem test_sec :
    leaves (start 0 [0xE004] [] [] 0 0) 2 0 8 [] [] = true := by
  decide

theorem test_sev :
    leaves (start 0 [0xE005] [] [] 0 0) 2 0 1 [] [] = true := by
  decide

theorem test_sez :
    leaves (start 0 [0xE006] [] [] 0 0) 2 0 4 [] [] = true := by
  decide

theorem test_ses :
    leaves (start 0 [0xE007] [] [] 0 0) 2 0 2 [] [] = true := by
  decide

theorem test_ccc :
    leaves (start 0 [0xE008] [] [] 0 15) 2 0 0 [] [] = true := by
  decide

theorem test_scc :
    leaves (start 0 [0xE009] [] [] 0 0) 2 0 15 [] [] = true := by
  decide

theorem test_nop :
    leaves (start 0 [0xE00A] [] [] 0 5) 2 0 5 [] [] = true := by
  decide

theorem test_ret :
    leaves (start 0 [0xE00B] [] [(0xfffe, 4)] 0xfffe 0) 4 0 0 [] [] = true := by
  decide

theorem test_pushpc :
    leaves (start 0x10 [0xE00F] [] [] 0 0) 0x12 0xfffe 0 [] [(0xfffe, 0x12), (0xffff, 0)] = true := by
  decide

theorem test_poppc :
    leaves (start 0 [0xE010] [] [(0xffff, 1)] 0xfffe 0) 0x100 0 0 [] [] = true := by
  decide

theorem test_pushflag :
    leaves (start 0 [0xE011] [] [] 0 10) 2 0xfffe 10 [] [(0xfffe, 10), (0xffff, 0)] = true := by
  decide

theorem test_popflag :
    leaves (start 0 [0xE012] [] [(0xfffe, 0xff), (0xffff, 0xff)] 0xfffe 0) 2 0 15 [] [] = true := by
  decide

theorem test_reti :
    after (step { start 0x3E8 [0xE00C] [] [(0xFFFC, 0x10), (0xFFFE, 0x0A)] 0xFFFC 0 with pending := true }) (fun t =>
      t.pc == 0x0010#16 && t.flag == 0b1010#4 && t.sp == 0#16 && t.pending == false && t.phase == .fetch) = true := by
  decide

theorem test_halt :
    after (step (start 0 [0xE00D] [] [] 0 0)) (fun t =>
      t.halted && t.haltReason == some "Halt encountered." && t.pc == 2#16 && t.phase == .execute && t.impulse == 2) =
      true := by
  decide

theorem test_wait_stays :
    after (step (start 0 [0xE00E] [] [] 0 0)) (fun t =>
      t.phase == .execute && t.impulse == 1 && t.pc == 2#16 && t.halted == false) = true := by
  decide

theorem test_wait_takes_interrupt :
    after (step (start 0 [0xE00E] [] [] 0 0).raiseInterrupt) (fun t =>
      t.phase == .interrupt && t.impulse == 1 && t.ivr == 0x03E8#16) = true := by
  decide

/-! ## Fatal conditions and the interrupt (95_test_vectors.md sections 2.6 and 2.8) -/

theorem test_undefined_pair_halts :
    after (step (start 0 [0x0C50, 0x0002] [] [] 0 0)) (fun t =>
      t.haltReason == some "unreachable addressing combination" && t.pc == 2#16 && t.phase == .operandFetch &&
        t.impulse == 2) = true := by
  decide

theorem test_illegal_word_halts :
    after (step (start 0 [0x83C0] [] [] 0 0)) (fun t =>
      t.haltReason == some "illegal instruction" && t.pc == 2#16 && t.phase == .fetch && t.impulse == 4) = true := by
  decide

/-- A core about to enter the interrupt, with PC = 0x0042, SP = 0x0100 and FLAG = 0011. -/
def entering : State := { (start 0x42 [] [] [] 0x100 3).raiseInterrupt with phase := .interrupt }

theorem test_interrupt_entry :
    after (step entering) (fun t =>
      t.sp == 0x00FC#16 && t.pc == 0x03E8#16 && t.flag == 3#4 && t.pending &&
        [0x42#8, 0#8, 3#8, 0#8] == [0xFC, 0xFD, 0xFE, 0xFF].map (Memory.read t.mem)) = true := by
  decide

/-! ## Memory and the host's calls (95_test_vectors.md sections 1 and 2.7) -/

theorem test_word_read_wraps :
    (start 0 [] [] [(0xFFFF, 0x34), (0, 0x12)] 0 0).memRead 0xFFFF#16 = 0x1234#16 := by
  decide

theorem test_reset_vector_bytes : State.reset.memRead 0x03E8#16 = 0xE00C#16 := by
  decide

/-- The empty image is the power-up state (70_reset_and_hazards.md R382). -/
theorem test_load_empty : after (State.reset.loadProgram []) (fun t => t == State.reset) = true := by
  decide

/-- The word that the host asks to run is the next step's instruction. -/
theorem test_withFetchWord :
    after (step (State.reset.withFetchWord 32 0x00058010)) (fun t => t.pc == 2#16 && t.flag == 0b0100#4) = true := by
  decide

/-! ## Witnesses: concrete states and operands that meet the hypotheses of the statements

Each theorem is named after the statement (or the statements) whose hypotheses it meets, one conjunct for each clause. -/

/-- A core about to fetch `nop` at 0xFFFE. -/
def fetchNop : State := start 0xFFFE [0xE00A] [] [] 0 0

/-- A core at this phase and impulse with this word in IR. -/
def at_ (p : Phase) (n : Nat) (w : Nat) : State :=
  { State.reset with phase := p, impulse := n, ir := BitVec.ofNat 16 w }

/-- A core that has halted. -/
def stopped : State := { at_ .execute 2 0xE00D with halted := true, reason := some .haltEncountered }

theorem witness_EncodeOfDecodedWordIsTheWord :
    decodeWord 0x0000#16 = .ok (.mov .modeA 0 .modeA 0) ∧ decodeWord 0xE012#16 = .ok .popflag := by
  decide

theorem witness_InstructionLengthMovesPc :
    (start 0 [0x1C72, 2, 4] [] [] 0 0).atBoundary ∧
    decodeWord ((start 0 [0x1C72, 2, 4] [] [] 0 0).memRead 0#16) = .ok (.add .modeD 1 .modeD 2) ∧
    Instr.wellFormed (.add .modeD 1 .modeD 2) = true ∧ Instr.instrClass (.add .modeD 1 .modeD 2) = .class1 ∧
    (∃ t, step (start 0 [0x1C72, 2, 4] [] [] 0 0) = .next t ∧ (t.pc == 6#16) = true) ∧
    (start 0 [0x83BF] [] [] 0 0).atBoundary ∧
    decodeWord ((start 0 [0x83BF] [] [] 0 0).memRead 0#16) = .ok (.pop .modeD 15) ∧
    Instr.wellFormed (.pop .modeD 15) = true ∧ Instr.instrClass (.pop .modeD 15) = .class2 ∧
    transfersControl (.pop .modeD 15) = false ∧
    ∃ t, step (start 0 [0x83BF] [] [] 0 0) = .next t ∧ (t.pc == 4#16) = true :=
  ⟨⟨by decide, by decide, by decide⟩, by decide, by decide, by decide, exists_after (by decide),
    ⟨by decide, by decide, by decide⟩, by decide, by decide, by decide, by decide, exists_after (by decide)⟩

/-- The branches of the byte condition at the top of memory: the low byte at 0xFFFF, the high byte at 0, another at 1. -/
theorem witness_WordWriteStoresTwoBytesAtAdr :
    (0xFFFF : Nat) = (0xFFFF#16).toNat ∧ (0 : Nat) ≠ (0xFFFF#16).toNat ∧ 0 = ((0xFFFF#16).toNat + 1) % 65536 ∧
    (1 : Nat) ≠ (0xFFFF#16).toNat ∧ 1 ≠ ((0xFFFF#16).toNat + 1) % 65536 := by
  decide

theorem witness_HaltedCoreNeverChanges_AdvanceReturnsFalseIffHalted : stopped.halted = true := by
  decide

theorem witness_FetchReadsTheWordAtPc :
    (at_ .fetch 1 0).halted = false ∧ (at_ .fetch 1 0).phase = .fetch ∧ (at_ .fetch 1 0).impulse = 1 ∧
    (at_ .fetch 2 0).halted = false ∧ (at_ .fetch 2 0).phase = .fetch ∧ (at_ .fetch 2 0).impulse = 2 := by
  decide

/-- An illegal word, and legal words that lead to OperandFetch by each of its two conditions and to Execute. -/
theorem witness_FetchDecidesTheNextPhase :
    (at_ .fetch 3 0x7000).halted = false ∧ (at_ .fetch 3 0x7000).phase = .fetch ∧ (at_ .fetch 3 0x7000).impulse = 3 ∧
    decodeWord (at_ .fetch 3 0x7000).ir = .error .illegalClass1 ∧
    decodeWord (at_ .fetch 3 0x6FFF).ir = .ok (.xor .modeD 15 .modeD 15) ∧
    decodeWord (at_ .fetch 3 0x8000).ir = .ok (.clr .modeA 0) ∧
    decodeWord (at_ .fetch 3 0x8010).ir = .ok (.clr .modeB 0) := by
  decide

theorem witness_EveryInstructionEndsByThePhaseDecision :
    fetchNop.halted = false ∧ Instr.wellFormed .nop = true ∧ Instr.nop ≠ .halt ∧ Instr.nop ≠ .wait := by
  decide

/-- The first impulse past each table, and the last one in it. -/
theorem witness_UndefinedImpulseHaltsOutOfRange :
    ∀ c ∈ [(Phase.fetch, 0, 0, false), (.fetch, 1, 0, true), (.fetch, 3, 0, true), (.fetch, 4, 0, false),
        (.operandFetch, 0, 0x0000, false), (.operandFetch, 3, 0x0000, true), (.operandFetch, 4, 0x0000, false),
        (.operandFetch, 7, 0x0000, true), (.operandFetch, 8, 0x0000, false), (.operandFetch, 5, 0x0C30, true),
        (.operandFetch, 9, 0x0C30, true), (.operandFetch, 10, 0x0C30, false),
        (.execute, 5, 0x83B0, true), (.execute, 6, 0x83B0, false), (.execute, 4, 0x8390, true),
        (.execute, 5, 0x8390, false), (.execute, 1, 0x7000, false),
        (.interrupt, 1, 0, true), (.interrupt, 8, 0, true), (.interrupt, 9, 0, false)],
      let s := at_ c.1 c.2.1 c.2.2.1
      s.halted = false ∧ s.impulseDefined = c.2.2.2 ∧ s.reason = none := by
  decide

theorem witness_UndefinedModePairHaltsUnchanged :
    fetchNop.halted = false ∧
    Instr.xor .modeD 15 .modeB 0 ∈ [Instr.mov .modeD 15 .modeB 0, .add .modeD 15 .modeB 0, .sub .modeD 15 .modeB 0,
      .cmp .modeD 15 .modeB 0, .and .modeD 15 .modeB 0, .or .modeD 15 .modeB 0, .xor .modeD 15 .modeB 0] := by
  decide

theorem witness_IllegalWordStopsAtFetchImpulseThree :
    (start 0xFFFE [0xFFFF] [] [] 0 0).atBoundary ∧
    ∃ e, decodeWord ((start 0xFFFE [0xFFFF] [] [] 0 0).memRead 0xFFFE#16) = .error e :=
  ⟨⟨by decide, by decide, by decide⟩, .illegalClass4, by decide⟩

theorem witness_StepRunsTheDecodedInstruction :
    fetchNop.atBoundary ∧
    decode [Memory.read fetchNop.mem fetchNop.pc.toNat, Memory.read fetchNop.mem (fetchNop.pc + 1#16).toNat] =
      .ok (.nop, []) :=
  ⟨⟨by decide, by decide, by decide⟩, by decide⟩

theorem witness_StepIsTheTabledNumberOfAdvances :
    fetchNop.atBoundary ∧ decodeWord (fetchNop.memRead fetchNop.pc) = .ok .nop ∧
    entering.halted = false ∧ entering.phase = .interrupt ∧ entering.impulse = 1 :=
  ⟨⟨by decide, by decide, by decide⟩, by decide, by decide, by decide, by decide⟩

/-- A core in the middle of OperandFetch, and one that has halted. -/
theorem witness_AdvanceKeepsTheInvariant_StepKeepsTheInvariant :
    (at_ .operandFetch 5 0x0C30).Inv ∧ stopped.Inv :=
  ⟨{ memory := by decide, impulsePos := by decide, impulseLe := by decide, reasonIff := by decide,
     inRange := fun _ => nofun,
     control := fun _ => ⟨by decide, fun _ => ⟨.mov .modeD 0 .modeD 0, by decide⟩⟩ },
   { memory := by decide, impulsePos := by decide, impulseLe := by decide, reasonIff := by decide,
     inRange := fun _ => nofun,
     control := nofun }⟩

theorem witness_ResetAndLoadMeetTheInvariant : ∃ t, State.reset.loadProgram [0x0D#8, 0xE0#8] = .next t :=
  ⟨_, rfl⟩

/-- Each phase, and an Execute impulse that does not end its instruction. -/
theorem witness_RaisedInterruptLeavesTheInstructionAlone :
    (at_ .fetch 1 0).phase = .fetch ∧ (at_ .operandFetch 1 0).phase = .operandFetch ∧
    (at_ .execute 4 0xE00C).phase = .execute ∧ (at_ .execute 4 0xE00C).ir ≠ encode .wait ∧
    (at_ .execute 4 0xE00C).advance.phase = .execute := by
  decide

theorem witness_InterruptEntrySavesFlagAndPc :
    entering.halted = false ∧ entering.phase = .interrupt ∧ entering.impulse = 1 ∧
    ∀ a ∈ [0xFB, 0x100], a ≠ (entering.sp - 4#16).toNat ∧ a ≠ (entering.sp - 3#16).toNat ∧
      a ≠ (entering.sp - 2#16).toNat ∧ a ≠ (entering.sp - 1#16).toNat := by
  decide

theorem witness_RetiResult : (at_ .fetch 1 0).halted = false := by
  decide

theorem witness_InterruptThenRetiRestoresTheProgram :
    entering.halted = false ∧ entering.phase = .interrupt ∧ entering.impulse = 1 ∧
    ∃ t, step entering = .next t ∧ (t.memRead t.pc == 0xE00C#16) = true :=
  ⟨by decide, by decide, by decide, exists_after (by decide)⟩

/-- The impulse that clears `pending`, and its neighbours on each condition. -/
theorem witness_OnlyRetiClearsPending :
    (let s := at_ .execute 5 0xE00C; s.halted = false ∧ s.phase = .execute ∧ s.impulse = 5 ∧ s.ir = 0xE00C#16) ∧
    (∀ s ∈ [at_ .execute 4 0xE00C, at_ .execute 5 0xE00B, at_ .interrupt 5 0xE00C, stopped],
      ¬ (s.halted = false ∧ s.phase = .execute ∧ s.impulse = 5 ∧ s.ir = 0xE00C#16)) ∧
    stopped.halted = true := by
  decide

theorem witness_FlagIsWrittenAndReadOnlyAsListed :
    fetchNop.halted = false ∧ writesFlag .nop = false ∧ readsFlag .nop = false := by
  decide

/-- Each of the seven Class1 instructions; a ModeB destination stores nothing, a ModeC one at the register's address. -/
theorem witness_Class1Frame :
    fetchNop.halted = false ∧
    (∀ i ∈ [Instr.mov .modeA 0 .modeB 0, .add .modeB 1 .modeC 15, .sub .modeA 0 .modeB 0, .cmp .modeA 0 .modeC 0,
      .and .modeA 0 .modeB 0, .or .modeA 0 .modeB 0, .xor .modeA 0 .modeB 0], i.instrClass = .class1) ∧
    storeAddress fetchNop (.cmp .modeA 0 .modeC 0) = none ∧
    storeAddress fetchNop (.add .modeB 1 .modeC 15) = some 0x0000#16 ∧
    registerWritten (.mov .modeA 0 .modeB 0) ≠ some 1 := by
  decide

theorem witness_Class2Frame :
    fetchNop.halted = false ∧
    (∀ i ∈ [Instr.clr .modeB 0, .asl .modeA 0, .jmp .modeA 0, .call .modeA 0, .push .modeB 0, .pop .modeB 15],
      i.instrClass = .class2) ∧
    storeAddress fetchNop (.pop .modeB 15) = none ∧
    storeAddress fetchNop (.push .modeB 0) = some 0xFFFE#16 ∧
    storeAddress fetchNop (.asl .modeA 0) = some 0xFFFE#16 := by
  decide

theorem witness_Class3AndClass4Frame :
    fetchNop.halted = false ∧ Instr.instrClass (.br 0x80#8) = .class3 ∧ Instr.instrClass .reti = .class4 ∧
    storeAddress fetchNop .reti = none ∧ storeAddress fetchNop .pushpc = some 0xFFFE#16 := by
  decide

/-- Execute impulse 1 of a register and of a memory destination, and impulse 2 of memory. -/
theorem witness_AddResult :
    combinationDefined .modeA .modeB = true ∧ (at_ .execute 1 0x1011).halted = false ∧
    (at_ .execute 1 0x1011).phase = .execute ∧ (at_ .execute 1 0x1011).ir = encode (.add .modeA 0 .modeB 1) ∧
    combinationDefined .modeD .modeC = true ∧ (at_ .execute 1 0x1C62).halted = false ∧
    (at_ .execute 1 0x1C62).phase = .execute ∧ (at_ .execute 1 0x1C62).ir = encode (.add .modeD 1 .modeC 2) ∧
    (at_ .execute 2 0x1C62).impulse = 2 := by
  decide

/-- Every pair of modes but one is defined. -/
theorem witness_SubAndCmpResult_MoveAndLogicResults :
    fetchNop.halted = false ∧ combinationDefined .modeD .modeD = true ∧ combinationDefined .modeA .modeB = true := by
  decide

theorem witness_UnaryArithmeticResults_ShiftAndRotateResults_JmpResult_CallResult_PushResult_BranchResults :
    (start 0 [] [] [] 0 15).halted = false := by
  decide

/-- Each mode of memory. -/
theorem witness_PopResult :
    fetchNop.halted = false ∧ fetchNop.effectiveAddress fetchNop.pc .modeA 0 = some 0xFFFE#16 ∧
    fetchNop.effectiveAddress fetchNop.pc .modeC 15 = some 0x0000#16 ∧
    fetchNop.effectiveAddress fetchNop.pc .modeD 15 = some 0xE00A#16 := by
  decide

/-- The first and the last of the ten instructions. -/
theorem witness_FlagInstructionResults :
    (at_ .execute 1 0xE000).halted = false ∧ (at_ .execute 1 0xE000).phase = .execute ∧
    (at_ .execute 1 0xE000).impulse = 1 ∧ (at_ .execute 1 0xE000).ir = 0xE000#16 ∧
    (at_ .execute 1 0xE009).halted = false ∧ (at_ .execute 1 0xE009).ir = 0xE009#16 := by
  decide

theorem witness_NopResult : fetchNop.halted = false ∧ fetchNop.atBoundary ∧ fetchNop.memRead fetchNop.pc = 0xE00A#16 :=
  ⟨by decide, ⟨by decide, by decide, by decide⟩, by decide⟩

theorem witness_RetAndPoppcResult_PushpcAndPushflagResult_PopflagResult : (start 0 [] [] [] 0xFFFF 15).halted = false := by
  decide

theorem witness_HaltResult :
    (start 0 [0xE00D] [] [] 0 0).atBoundary ∧ (start 0 [0xE00D] [] [] 0 0).memRead 0#16 = 0xE00D#16 :=
  ⟨⟨by decide, by decide, by decide⟩, by decide⟩

theorem witness_WaitResult :
    let s := at_ .execute 1 0xE00E
    s.halted = false ∧ s.phase = .execute ∧ s.impulse = 1 ∧ s.ir = 0xE00E#16 ∧ s.pending = false := by
  decide

/-- `call #6` at 0 with `ret` at 6 (95_test_vectors.md section 1, S3). -/
theorem witness_CallThenRetReturnsAfterTheCall :
    let s := start 0 [0x8300, 0x0006, 0xE00D, 0xE00B] [] [] 0 0
    s.atBoundary ∧ s.pending = false ∧ decodeWord (s.memRead s.pc) = .ok (.call .modeA 0) ∧
    ∃ t, step s = .next t ∧ (t.memRead t.pc == 0xE00B#16) = true :=
  ⟨⟨by decide, by decide, by decide⟩, by decide, by decide, exists_after (by decide)⟩

/-- The longest image that fits, and the shortest that does not. -/
theorem witness_LoadProgramResetsAndLoads :
    (List.replicate 65536 0xFF#8).length ≤ 65536 ∧ 65536 < (List.replicate 65537 0xFF#8).length := by
  rw [List.length_replicate, List.length_replicate]
  omega

end Sys2Proof.Tests
end

section
/-! Memory (20_memory.md R62): the two bytes of a word write, and the one store that a line of any phase can perform. -/

namespace Sys2Proof.Machine

/-! ## The bytes of a word write -/

theorem word_succ_toNat (a : Word) : (a + 1#16).toNat = (a.toNat + 1) % 65536 := by
  simp [BitVec.toNat_add]

/-- The two addresses of a word write differ, so the order in which they are compared does not matter. -/
theorem Memory.read_writeWord_lowFirst (m : Memory) (a v : Word) (b : Nat) :
    Memory.read (Memory.writeWord m a v) b =
      if b = a.toNat then v.extractLsb' 0 8
      else if b = (a.toNat + 1) % 65536 then v.extractLsb' 8 8
      else Memory.read m b := by
  rw [Memory.read_writeWord, ← word_succ_toNat]
  by_cases hlow : b = a.toNat
  · have hhigh : b ≠ (a + 1#16).toNat := fun e => word_succ_ne a (e.symm.trans hlow)
    simp only [if_neg hhigh, if_pos hlow]
  · simp only [if_neg hlow]

/-! ## What a line can do to memory -/

/-- From `s` to `t` memory is left alone, or MDR is stored at ADR, as `s` has both (20_memory.md R62). -/
def State.storesOnlyMdrAtAdr (s t : State) : Prop :=
  t.mem = s.mem ∨ t.mem = (s.memWrite s.adr s.mdr).mem

theorem fetchStep_mem (n : Nat) (s : State) : (fetchStep n s).mem = s.mem := by
  obtain ⟨_, _, _, _, _, _, _, h⟩ := fetchStep_touches n s
  rw [h]

theorem operandFetchStep_mem (n : Nat) (s : State) : (operandFetchStep n s).mem = s.mem := by
  obtain ⟨_, _, _, _, _, _, _, _, h⟩ := operandFetchStep_touches n s
  rw [h]

theorem interruptStep_stores (n : Nat) (s : State) : s.storesOnlyMdrAtAdr (interruptStep n s) := by
  obtain ⟨_, _, _, _, _, _, _, _, b, h⟩ := interruptStep_touches n s
  rw [h]
  cases b with
  | false => exact .inl rfl
  | true => exact .inr rfl

/-! ## The handlers that store nothing -/

theorem cmpStep_mem (mad : Mode) (rd : Reg) (n : Nat) (s : State) : (cmpStep mad rd n s).mem = s.mem := by
  unfold cmpStep
  split <;> rfl

theorem jmpStep_mem (mad : Mode) (rd : Reg) (n : Nat) (s : State) : (jmpStep mad rd n s).mem = s.mem := by
  unfold jmpStep
  split <;> rfl

theorem branchStep_mem (cond : BitVec 4 → Bool) (disp : BitVec 8) (n : Nat) (s : State) :
    (branchStep cond disp n s).mem = s.mem := by
  unfold branchStep
  split
  · split <;> rfl
  · rfl

theorem flagStep_mem (f : BitVec 4 → BitVec 4) (n : Nat) (s : State) : (flagStep f n s).mem = s.mem := by
  unfold flagStep
  split <;> rfl

theorem nopStep_mem (n : Nat) (s : State) : (nopStep n s).mem = s.mem := by
  unfold nopStep
  split <;> rfl

theorem haltStep_mem (n : Nat) (s : State) : (haltStep n s).mem = s.mem := by
  unfold haltStep
  split <;> rfl

theorem waitStep_mem (n : Nat) (s : State) : (waitStep n s).mem = s.mem := by
  unfold waitStep
  split
  · split <;> rfl
  · rfl

theorem popWordStep_mem {store : Word → State → State} (hstore : ∀ w s, (store w s).mem = s.mem) (n : Nat) (s : State) :
    (popWordStep store n s).mem = s.mem := by
  unfold popWordStep
  split
  · rfl
  · rfl
  · exact hstore s.mdr s
  · rfl

theorem interruptReturnStep_mem (n : Nat) (s : State) : (interruptReturnStep n s).mem = s.mem := by
  unfold interruptReturnStep
  split <;> rfl

/-! ## The handlers that store a word -/

theorem State.writeBack1_mem (s : State) (mad : Mode) (rd : Reg) (v : Word) : (s.writeBack1 mad rd v).mem = s.mem := by
  unfold State.writeBack1
  split <;> rfl

theorem State.writeBack2_stores (s : State) (mad : Mode) : s.storesOnlyMdrAtAdr (s.writeBack2 mad) := by
  unfold State.writeBack2
  split
  · exact .inl rfl
  · exact .inr rfl

theorem resultStep_stores (mad : Mode) (rd : Reg) (op : Word → Word → BitVec 4 → AluResult) (n : Nat) (s : State) :
    s.storesOnlyMdrAtAdr (resultStep mad rd op n s) := by
  unfold resultStep
  split
  · exact .inl (State.writeBack1_mem _ mad rd _)
  · exact s.writeBack2_stores mad
  · exact .inl rfl

theorem callStep_stores (mad : Mode) (rd : Reg) (n : Nat) (s : State) : s.storesOnlyMdrAtAdr (callStep mad rd n s) := by
  unfold callStep
  split
  case h_3 => exact .inr rfl
  all_goals exact .inl rfl

theorem pushStep_stores (mad : Mode) (rd : Reg) (n : Nat) (s : State) : s.storesOnlyMdrAtAdr (pushStep mad rd n s) := by
  unfold pushStep
  split
  case h_3 => exact .inr rfl
  all_goals exact .inl rfl

theorem pushWordStep_stores (value : State → Word) (n : Nat) (s : State) :
    s.storesOnlyMdrAtAdr (pushWordStep value n s) := by
  unfold pushWordStep
  split
  case h_3 => exact .inr rfl
  all_goals exact .inl rfl

theorem popStep_stores (mad : Mode) (rd : Reg) (n : Nat) (s : State) : s.storesOnlyMdrAtAdr (popStep mad rd n s) := by
  unfold popStep
  split
  case h_4 => split <;> exact .inl rfl
  case h_5 =>
    split
    · exact .inl rfl
    · exact .inr rfl
  all_goals exact .inl rfl

/-! ## Every impulse -/

/-- Every Execute line of every instruction (40_phase_control.md R153). -/
theorem handler_stores (i : Instr) (n : Nat) (s : State) : s.storesOnlyMdrAtAdr (handler i n s) := by
  cases i with
  | mov _ _ mad rd | add _ _ mad rd | sub _ _ mad rd | and _ _ mad rd | or _ _ mad rd | xor _ _ mad rd =>
    exact resultStep_stores mad rd _ n s
  | clr mad rd | neg mad rd | inc mad rd | dec mad rd | asl mad rd | asr mad rd | lsr mad rd | rol mad rd | ror mad rd
  | rlc mad rd | rrc mad rd => exact resultStep_stores mad rd _ n s
  | cmp _ _ mad rd => exact .inl (cmpStep_mem mad rd n s)
  | jmp mad rd => exact .inl (jmpStep_mem mad rd n s)
  | call mad rd => exact callStep_stores mad rd n s
  | push mad rd => exact pushStep_stores mad rd n s
  | pop mad rd => exact popStep_stores mad rd n s
  | br disp | bne disp | beq disp | bpl disp | bcs disp | bcc disp | bvs disp | bvc disp =>
    exact .inl (branchStep_mem _ disp n s)
  | clc | clv | clz | cls | sec | sev | sez | ses | ccc | scc => exact .inl (flagStep_mem _ n s)
  | nop => exact .inl (nopStep_mem n s)
  | ret | poppc => exact .inl (popWordStep_mem (fun w s => s.setPc_mem w) n s)
  | popflag => exact .inl (popWordStep_mem (fun w s => s.setFlag_mem (flagOfWord w)) n s)
  | reti => exact .inl (interruptReturnStep_mem n s)
  | halt => exact .inl (haltStep_mem n s)
  | wait => exact .inl (waitStep_mem n s)
  | pushpc | pushflag => exact pushWordStep_stores _ n s

theorem executeStep_stores (n : Nat) (s : State) : s.storesOnlyMdrAtAdr (executeStep n s) := by
  unfold executeStep
  split
  · next i _ => exact handler_stores i n s
  · exact .inl rfl

/-- The counter is incremented before the line runs; memory, ADR and MDR are then still those of `s`. -/
theorem State.advance_stores (s : State) : s.storesOnlyMdrAtAdr s.advance := by
  unfold State.advance
  split
  · exact .inl rfl
  · split
    · exact .inl (fetchStep_mem s.impulse s.tick)
    · exact .inl (operandFetchStep_mem s.impulse s.tick)
    · exact executeStep_stores s.impulse s.tick
    · exact interruptStep_stores s.impulse s.tick

/-- Settles O6: the byte clause is the law of `writeWord`, the clause on impulses a case split on the phase and then on the
instruction whose handler runs. -/
theorem wordWriteStoresTwoBytesAtAdr : Obligations.WordWriteStoresTwoBytesAtAdr :=
  ⟨fun s a v b => Memory.read_writeWord_lowFirst s.mem a v b, State.advance_stores⟩

end Sys2Proof.Machine
end

section
/-! Lengths (30_encoding.md R90): the length of a word by its class, and PC past the whole instruction after a step. -/

namespace Sys2Proof

/-! ## The length of a word -/

theorem lengthOfWord_class1 {w : Word} (h : classOf w = some .class1) :
    lengthOfWord w = 2 + 2 * ((fieldMas w).extWords + (fieldMad w).extWords) := by
  simp [lengthOfWord, h]

theorem lengthOfWord_class2 {w : Word} (h : classOf w = some .class2) :
    lengthOfWord w = 2 + 2 * (fieldMad w).extWords := by
  simp [lengthOfWord, h]

theorem lengthOfWord_class3 {w : Word} (h : classOf w = some .class3) : lengthOfWord w = 2 := by
  simp [lengthOfWord, h]

theorem lengthOfWord_class4 {w : Word} (h : classOf w = some .class4) : lengthOfWord w = 2 := by
  simp [lengthOfWord, h]

theorem lengthOfWord_encodeClass1 (o : BitVec 3) (mas : Mode) (rs : Reg) (mad : Mode) (rd : Reg) :
    lengthOfWord (encodeClass1 o mas rs mad rd) = 2 + 2 * (mas.extWords + mad.extWords) := by
  rw [lengthOfWord_class1 (classOf_encodeClass1 o mas rs mad rd), fieldMas_encodeClass1, fieldMad_encodeClass1]

theorem lengthOfWord_encodeClass2 (o : BitVec 7) (mad : Mode) (rd : Reg) :
    lengthOfWord (encodeClass2 o mad rd) = 2 + 2 * mad.extWords := by
  rw [lengthOfWord_class2 (classOf_encodeClass2 o mad rd), fieldMad_encodeClass2]

theorem Mode.extWords_eq (m : Mode) : m.extWords = if m = .modeA ∨ m = .modeD then 1 else 0 := by
  cases m <;> rfl

/-! ## The extension words of an instruction -/

/-- The extension words that the operands of an instruction take (30_encoding.md R90). -/
def Instr.extWords : Instr → Nat
  | .mov mas _ mad _ | .add mas _ mad _ | .sub mas _ mad _ | .cmp mas _ mad _ => mas.extWords + mad.extWords
  | .and mas _ mad _ | .or mas _ mad _ | .xor mas _ mad _ => mas.extWords + mad.extWords
  | .clr mad _ | .neg mad _ | .inc mad _ | .dec mad _ | .asl mad _ | .asr mad _ | .lsr mad _ => mad.extWords
  | .rol mad _ | .ror mad _ | .rlc mad _ | .rrc mad _ => mad.extWords
  | .jmp mad _ | .call mad _ | .push mad _ | .pop mad _ => mad.extWords
  | _ => 0

theorem extWords_of_decodeClass1 {w : Word} {i : Instr} (h : decodeClass1 w = .ok i) :
    i.extWords = (fieldMas w).extWords + (fieldMad w).extWords := by
  unfold decodeClass1 at h
  split at h <;> cases h <;> rfl

theorem extWords_of_decodeClass2 {w : Word} {i : Instr} (h : decodeClass2 w = .ok i) :
    i.extWords = (fieldMad w).extWords := by
  unfold decodeClass2 at h
  split at h <;> cases h <;> rfl

theorem extWords_of_decodeClass3 {w : Word} {i : Instr} (h : decodeClass3 w = .ok i) : i.extWords = 0 := by
  unfold decodeClass3 at h
  split at h <;> cases h <;> rfl

theorem extWords_of_decodeClass4 {w : Word} {i : Instr} (h : decodeClass4 w = .ok i) : i.extWords = 0 := by
  unfold decodeClass4 at h
  split at h <;> cases h <;> rfl

/-- The length found from a legal word is that of the word and of the extension words of the instruction it is. -/
theorem lengthOfWord_of_decodeWord {w : Word} {i : Instr} (h : decodeWord w = .ok i) :
    lengthOfWord w = 2 + 2 * i.extWords := by
  cases hc : classOf w with
  | none =>
    simp only [decodeWord, hc] at h
    cases h
  | some c =>
    cases c with
    | class1 =>
      rw [decodeWord_class1 hc] at h
      rw [lengthOfWord_class1 hc, extWords_of_decodeClass1 h]
    | class2 =>
      rw [decodeWord_class2 hc] at h
      rw [lengthOfWord_class2 hc, extWords_of_decodeClass2 h]
    | class3 =>
      rw [decodeWord_class3 hc] at h
      rw [lengthOfWord_class3 hc, extWords_of_decodeClass3 h]
    | class4 =>
      rw [decodeWord_class4 hc] at h
      rw [lengthOfWord_class4 hc, extWords_of_decodeClass4 h]

end Sys2Proof

namespace Sys2Proof.Machine

/-! ## PC past the operands -/

theorem pcAfterOperand_eq (p : Word) (m : Mode) : pcAfterOperand p m = p + BitVec.ofNat 16 (2 * m.extWords) := by
  cases m with
  | modeA | modeD => rfl
  | modeB | modeC => exact (BitVec.add_zero p).symm

/-! ## Handlers that leave PC alone -/

/-- No line of the table changes PC. -/
def KeepsPc (line : Nat → State → State) : Prop := ∀ n s, (line n s).pc = s.pc

theorem KeepsPc.runPhase_pc {line : Nat → State → State} (h : KeepsPc line) (k : Nat) (s : State) :
    (runPhase line k s).pc = s.pc := by
  induction k generalizing s with
  | zero => rfl
  | succ k ih =>
    have hline : (line s.impulse s.tick).pc = s.pc := h s.impulse s.tick
    simp only [runPhase]
    split
    · exact (ih _).trans hline
    · exact hline

theorem KeepsPc.runHandler_pc {line : Nat → State → State} (h : KeepsPc line) (s : State) :
    (runHandler line s).pc = s.pc :=
  h.runPhase_pc handlerLines (s.gotoPhase .execute)

theorem State.writeBack1_pc (s : State) (mad : Mode) (rd : Reg) (v : Word) : (s.writeBack1 mad rd v).pc = s.pc := by
  unfold State.writeBack1
  split <;> rfl

theorem State.writeBack2_pc (s : State) (mad : Mode) : (s.writeBack2 mad).pc = s.pc := by
  unfold State.writeBack2
  split <;> rfl

theorem resultStep_keepsPc (mad : Mode) (rd : Reg) (op : Word → Word → BitVec 4 → AluResult) :
    KeepsPc (resultStep mad rd op) := by
  intro n s
  unfold resultStep
  split
  · exact State.writeBack1_pc _ mad rd _
  · exact s.writeBack2_pc mad
  · rfl

theorem cmpStep_keepsPc (mad : Mode) (rd : Reg) : KeepsPc (cmpStep mad rd) := by
  intro n s
  unfold cmpStep
  split <;> rfl

theorem pushStep_keepsPc (mad : Mode) (rd : Reg) : KeepsPc (pushStep mad rd) := by
  intro n s
  unfold pushStep
  split <;> rfl

theorem popStep_keepsPc (mad : Mode) (rd : Reg) : KeepsPc (popStep mad rd) := by
  intro n s
  unfold popStep
  split
  case h_4 => split <;> rfl
  case h_5 => split <;> rfl
  all_goals rfl

/-! ## PC after an instruction that leaves it to operand fetch -/

theorem KeepsPc.runTwoOperand_pc {line : Nat → State → State} (h : KeepsPc line) {mas mad : Mode} (rs rd : Reg)
    {s : State} (hh : s.halted = false) (hd : combinationDefined mas mad = true) :
    (runTwoOperand mas rs mad rd line s).pc = s.pc + BitVec.ofNat 16 (2 * (mas.extWords + mad.extWords)) :=
  calc (runTwoOperand mas rs mad rd line s).pc
      = pcAfterOperand (pcAfterOperand s.pc mas) mad := by
        rw [runTwoOperand_eq mas rs mad rd line s hh hd, h.runHandler_pc]
        rfl
    _ = s.pc + BitVec.ofNat 16 (2 * (mas.extWords + mad.extWords)) := by
        rw [pcAfterOperand_eq, pcAfterOperand_eq, Nat.mul_add, BitVec.ofNat_add, BitVec.add_assoc]

theorem KeepsPc.runOneOperand_pc {line : Nat → State → State} (h : KeepsPc line) (mad : Mode) (rd : Reg) {s : State}
    (hh : s.halted = false) :
    (runOneOperand mad rd line s).pc = s.pc + BitVec.ofNat 16 (2 * mad.extWords) := by
  rw [runOneOperand_eq mad rd line s hh, h.runHandler_pc]
  exact pcAfterOperand_eq s.pc mad

/-- A Class1 instruction with a defined pair of modes moves PC past its extension words (42_class1_two_operand.md R200). -/
theorem exec_class1_pc {i : Instr} {s : State} (hh : s.halted = false) (hw : i.wellFormed = true)
    (hc : i.instrClass = .class1) :
    ∃ t, exec i s = .next t ∧ t.pc = s.pc + BitVec.ofNat 16 (2 * i.extWords) := by
  cases i with
  | mov mas rs mad rd | add mas rs mad rd | sub mas rs mad rd | and mas rs mad rd | or mas rs mad rd | xor mas rs mad rd =>
    exact ⟨_, rfl, (resultStep_keepsPc mad rd _).runTwoOperand_pc rs rd hh hw⟩
  | cmp mas rs mad rd => exact ⟨_, rfl, (cmpStep_keepsPc mad rd).runTwoOperand_pc rs rd hh hw⟩
  | _ => exact nomatch hc

/-- A Class2 instruction that does not transfer control moves PC past its extension word, if it has one
(43_class2_one_operand.md R230). -/
theorem exec_class2_pc {i : Instr} {s : State} (hh : s.halted = false) (hc : i.instrClass = .class2)
    (ht : transfersControl i = false) :
    ∃ t, exec i s = .next t ∧ t.pc = s.pc + BitVec.ofNat 16 (2 * i.extWords) := by
  cases i with
  | clr mad rd | neg mad rd | inc mad rd | dec mad rd | asl mad rd | asr mad rd | lsr mad rd | rol mad rd | ror mad rd
  | rlc mad rd | rrc mad rd => exact ⟨_, rfl, (resultStep_keepsPc mad rd _).runOneOperand_pc mad rd hh⟩
  | push mad rd => exact ⟨_, rfl, (pushStep_keepsPc mad rd).runOneOperand_pc mad rd hh⟩
  | pop mad rd => exact ⟨_, rfl, (popStep_keepsPc mad rd).runOneOperand_pc mad rd hh⟩
  | jmp mad rd | call mad rd => exact nomatch ht
  | _ => exact nomatch hc

/-! ## A step at an instruction boundary -/

/-- At a boundary, a step is the meaning of the instruction at PC, run after the Fetch phase (40_phase_control.md R141). -/
theorem step_of_decodeWord {s : State} {i : Instr} (hb : s.atBoundary) (hd : decodeWord (s.memRead s.pc) = .ok i) :
    step s = exec i (s.fetched.gotoPhase (phaseAfterFetch (s.memRead s.pc))) := by
  obtain ⟨hh, hp, hi⟩ := hb
  have hf : runFetch s = s.fetched.gotoPhase (phaseAfterFetch (s.memRead s.pc)) := by
    rw [runFetch_eq s hh hp hi, hd]
  have hir : decodeWord s.fetched.ir = .ok i := hd
  simp [step, hh, hp, hi, hf, hir]

/-- Fetch moves PC by the 2 bytes of the word; when the instruction moves it by its extension words, the step moves it by
the length found from the word (30_encoding.md R90). -/
theorem step_pc_of_exec_pc {s t : State} {i : Instr} (hb : s.atBoundary) (hd : decodeWord (s.memRead s.pc) = .ok i)
    (hx : ∀ u : State, u.halted = false → ∃ v, exec i u = .next v ∧ v.pc = u.pc + BitVec.ofNat 16 (2 * i.extWords))
    (hs : step s = .next t) : t.pc = s.pc + BitVec.ofNat 16 (lengthOfWord (s.memRead s.pc)) := by
  obtain ⟨v, hv, hpc⟩ := hx (s.fetched.gotoPhase (phaseAfterFetch (s.memRead s.pc))) hb.1
  rw [step_of_decodeWord hb hd, hv] at hs
  cases hs
  calc t.pc
      = s.pc + 2#16 + BitVec.ofNat 16 (2 * i.extWords) := hpc
    _ = s.pc + BitVec.ofNat 16 (lengthOfWord (s.memRead s.pc)) := by
        rw [lengthOfWord_of_decodeWord hd, BitVec.ofNat_add, BitVec.add_assoc]

/-- Settles O5: the lengths are read off the encoded fields; Fetch moves PC past the word, operand fetch past the extension
words, and no handler but those of jmp and call moves it further. -/
theorem instructionLengthMovesPc : Obligations.InstructionLengthMovesPc := by
  refine ⟨lengthOfWord_encodeClass1, lengthOfWord_encodeClass2,
    fun o disp => lengthOfWord_class3 (classOf_encodeClass3 o disp),
    fun o => lengthOfWord_class4 (classOf_encodeClass4 o), Mode.extWords_eq, ?_⟩
  rintro i s t hb hd hw (hc | ⟨hc, ht⟩) hs
  · exact step_pc_of_exec_pc hb hd (fun _ hh => exec_class1_pc hh hw hc) hs
  · exact step_pc_of_exec_pc hb hd (fun _ hh => exec_class2_pc hh hc ht) hs

end Sys2Proof.Machine
end

section
/-! Phase control (40_phase_control.md): the two impulses of Fetch that read the word, and the phase decision that ends every
instruction. -/

namespace Sys2Proof.Machine

/-! ## The impulses of Fetch that read the word -/

/-- In Fetch, `advance()` performs the line the counter names, on the incremented counter (40_phase_control.md R130). -/
theorem State.advance_fetch {s : State} (hh : s.halted = false) (hp : s.phase = .fetch) :
    s.advance = fetchStep s.impulse s.tick := by
  simp [State.advance, hh, hp]

theorem fetchStep_one (s : State) : fetchStep 1 s.tick = { s with adr := s.pc, impulse := s.impulse + 1 } := rfl

theorem fetchStep_two (s : State) :
    fetchStep 2 s.tick = { s with ir := s.memRead s.adr, pc := s.pc + 2#16, impulse := s.impulse + 1 } := rfl

/-- Settles O13: `advance()` in Fetch is the line of FetchStep that the counter names. -/
theorem fetchReadsTheWordAtPc : Obligations.FetchReadsTheWordAtPc := by
  refine fun s hh hp => ⟨fun hi => ?_, fun hi => ?_⟩
  · rw [State.advance_fetch hh hp, hi, fetchStep_one, hi]
  · rw [State.advance_fetch hh hp, hi, fetchStep_two, hi]

/-! ## What the handlers with a table of their own leave -/

/-- `cmp`: only FLAG is written (42_class1_two_operand.md R204). -/
theorem runHandler_cmp (mad : Mode) (rd : Reg) (s : State) (hh : s.halted = false) :
    runHandler (cmpStep mad rd) s = State.ended { s with flag := (aluSub (s.destValue mad rd) s.t).flag } := by
  obtain ⟨regs, pc, sp, flag, ir, mdr, adr, t, ivr, phase, impulse, pending, halted, reason, mem⟩ := s
  subst hh
  cases pending <;> rfl

/-- `jmp` (43_class2_one_operand.md R242). -/
theorem runHandler_jmp (mad : Mode) (rd : Reg) (s : State) (hh : s.halted = false) :
    runHandler (jmpStep mad rd) s = State.ended { s with pc := s.destValue mad rd } := by
  obtain ⟨regs, pc, sp, flag, ir, mdr, adr, t, ivr, phase, impulse, pending, halted, reason, mem⟩ := s
  subst hh
  cases pending <;> rfl

/-- `call`: PC is pushed and the target goes to PC by way of T (43_class2_one_operand.md R243). -/
theorem runHandler_call (mad : Mode) (rd : Reg) (s : State) (hh : s.halted = false) :
    runHandler (callStep mad rd) s =
      State.ended { s with
        t := s.destValue mad rd
        sp := s.sp - 2#16
        adr := s.sp - 2#16
        mdr := s.pc
        mem := Memory.writeWord s.mem (s.sp - 2#16) s.pc
        pc := s.destValue mad rd } := by
  obtain ⟨regs, pc, sp, flag, ir, mdr, adr, t, ivr, phase, impulse, pending, halted, reason, mem⟩ := s
  subst hh
  cases pending <;> rfl

/-- `push`: the operand's value is pushed by way of T (43_class2_one_operand.md R244). -/
theorem runHandler_push (mad : Mode) (rd : Reg) (s : State) (hh : s.halted = false) :
    runHandler (pushStep mad rd) s =
      State.ended { s with
        t := s.destValue mad rd
        sp := s.sp - 2#16
        adr := s.sp - 2#16
        mdr := s.destValue mad rd
        mem := Memory.writeWord s.mem (s.sp - 2#16) (s.destValue mad rd) } := by
  obtain ⟨regs, pc, sp, flag, ir, mdr, adr, t, ivr, phase, impulse, pending, halted, reason, mem⟩ := s
  subst hh
  cases pending <;> rfl

/-- `pop` to a register: T takes the ADR it finds, although a register has no address (43_class2_one_operand.md R245). -/
theorem runHandler_popRegister (rd : Reg) (s : State) (hh : s.halted = false) :
    runHandler (popStep .modeB rd) s =
      State.ended { s with
        t := s.adr
        adr := s.sp
        mdr := s.memRead s.sp
        sp := s.sp + 2#16
        regs := s.regs.set rd.val (s.memRead s.sp) } := by
  obtain ⟨regs, pc, sp, flag, ir, mdr, adr, t, ivr, phase, impulse, pending, halted, reason, mem⟩ := s
  subst hh
  cases pending <;> rfl

/-- `nop` (45_class4_control.md R301). -/
theorem runHandler_nop (s : State) (hh : s.halted = false) : runHandler nopStep s = s.ended := by
  obtain ⟨regs, pc, sp, flag, ir, mdr, adr, t, ivr, phase, impulse, pending, halted, reason, mem⟩ := s
  subst hh
  cases pending <;> rfl

/-- `halt`: the core stops at Execute impulse 2 (45_class4_control.md R307). -/
theorem runHandler_halt (s : State) :
    runHandler haltStep s =
      { s with phase := .execute, impulse := 2, halted := true, reason := some .haltEncountered } := rfl

/-- `wait`: to Interrupt when one is pending, and otherwise back to its own impulse 1 (45_class4_control.md R308). -/
theorem runHandler_wait (s : State) :
    runHandler waitStep s = { s with phase := if s.pending then .interrupt else .execute, impulse := 1 } := by
  obtain ⟨regs, pc, sp, flag, ir, mdr, adr, t, ivr, phase, impulse, pending, halted, reason, mem⟩ := s
  cases pending <;> cases halted <;> rfl

/-! ## The phase decision -/

/-- The core runs on, at impulse 1 of Interrupt if an interrupt is pending and of Fetch if not (40_phase_control.md R155). -/
def State.atPhaseDecision (t : State) : Prop :=
  t.phase = (if t.pending then .interrupt else .fetch) ∧ t.impulse = 1 ∧ t.halted = false

theorem State.ended_atPhaseDecision {s : State} (hh : s.halted = false) : s.ended.atPhaseDecision :=
  ⟨rfl, rfl, hh⟩

theorem State.resultWritten_atPhaseDecision {s : State} (hh : s.halted = false) (mad : Mode) (rd : Reg) (v : Word)
    (f : BitVec 4) : (s.resultWritten mad rd v f).atPhaseDecision := by
  unfold State.resultWritten
  split
  · exact State.ended_atPhaseDecision hh
  · exact State.ended_atPhaseDecision hh

/-- Run from Execute impulse 1, the table ends its instruction by the phase decision. -/
def EndsByPhaseDecision (line : Nat → State → State) : Prop :=
  ∀ s : State, s.halted = false → (runHandler line s).atPhaseDecision

/-- A table that leaves an ended instruction, whatever it writes, ends it by the phase decision. -/
theorem EndsByPhaseDecision.of_ended {line : Nat → State → State} {after : State → State}
    (hrun : ∀ s : State, s.halted = false → runHandler line s = (after s).ended)
    (hafter : ∀ s : State, (after s).halted = s.halted) : EndsByPhaseDecision line := by
  intro s hh
  rw [hrun s hh]
  exact State.ended_atPhaseDecision ((hafter s).trans hh)

theorem resultStep_ends (mad : Mode) (rd : Reg) (op : Word → Word → BitVec 4 → AluResult) :
    EndsByPhaseDecision (resultStep mad rd op) := by
  intro s hh
  rw [runHandler_result mad rd op s hh]
  exact State.resultWritten_atPhaseDecision hh mad rd _ _

theorem cmpStep_ends (mad : Mode) (rd : Reg) : EndsByPhaseDecision (cmpStep mad rd) :=
  .of_ended (runHandler_cmp mad rd) fun _ => rfl

theorem jmpStep_ends (mad : Mode) (rd : Reg) : EndsByPhaseDecision (jmpStep mad rd) :=
  .of_ended (runHandler_jmp mad rd) fun _ => rfl

theorem callStep_ends (mad : Mode) (rd : Reg) : EndsByPhaseDecision (callStep mad rd) :=
  .of_ended (runHandler_call mad rd) fun _ => rfl

theorem pushStep_ends (mad : Mode) (rd : Reg) : EndsByPhaseDecision (pushStep mad rd) :=
  .of_ended (runHandler_push mad rd) fun _ => rfl

theorem popStep_ends (mad : Mode) (rd : Reg) : EndsByPhaseDecision (popStep mad rd) := by
  by_cases hm : mad = .modeB
  · subst hm
    exact .of_ended (runHandler_popRegister rd) fun _ => rfl
  · exact .of_ended (fun s hh => runHandler_popMemory mad rd s hh hm) fun _ => rfl

theorem branchStep_ends (cond : BitVec 4 → Bool) (disp : BitVec 8) : EndsByPhaseDecision (branchStep cond disp) :=
  .of_ended (runHandler_branch cond disp) fun _ => rfl

theorem flagStep_ends (f : BitVec 4 → BitVec 4) : EndsByPhaseDecision (flagStep f) :=
  .of_ended (runHandler_flag f) fun _ => rfl

theorem nopStep_ends : EndsByPhaseDecision nopStep :=
  .of_ended runHandler_nop fun _ => rfl

/-- `ret` and `poppc` have this one table (45_class4_control.md R302, R304). -/
theorem popPc_ends : EndsByPhaseDecision (popWordStep fun w u => u.setPc w) :=
  .of_ended runHandler_popPc fun _ => rfl

theorem popflagStep_ends : EndsByPhaseDecision popflagStep :=
  .of_ended runHandler_popFlag fun _ => rfl

theorem pushpcStep_ends : EndsByPhaseDecision pushpcStep :=
  .of_ended (fun s hh => runHandler_pushWord State.pc s hh fun _ _ _ _ => rfl) fun _ => rfl

theorem pushflagStep_ends : EndsByPhaseDecision pushflagStep :=
  .of_ended (fun s hh => runHandler_pushWord (fun u => flagWord u.flag) s hh fun _ _ _ _ => rfl) fun _ => rfl

/-- `reti` clears `pending` before its decision, so the decision is Fetch (60_exceptions.md R355). -/
theorem interruptReturnStep_ends : EndsByPhaseDecision interruptReturnStep := by
  intro s hh
  rw [runHandler_interruptReturn s hh]
  exact ⟨rfl, rfl, hh⟩

/-! ## Every instruction -/

theorem EndsByPhaseDecision.runTwoOperand {line : Nat → State → State} (h : EndsByPhaseDecision line) {mas mad : Mode}
    (rs rd : Reg) {s : State} (hh : s.halted = false) (hd : combinationDefined mas mad = true) :
    (runTwoOperand mas rs mad rd line s).atPhaseDecision := by
  rw [runTwoOperand_eq mas rs mad rd line s hh hd]
  exact h _ hh

theorem EndsByPhaseDecision.runOneOperand {line : Nat → State → State} (h : EndsByPhaseDecision line) (mad : Mode)
    (rd : Reg) {s : State} (hh : s.halted = false) : (runOneOperand mad rd line s).atPhaseDecision := by
  rw [runOneOperand_eq mad rd line s hh]
  exact h _ hh

theorem exec_atPhaseDecision {i : Instr} {s : State} (hh : s.halted = false) (hw : i.wellFormed = true)
    (hhalt : i ≠ .halt) (hwait : i ≠ .wait) : ∃ t, exec i s = .next t ∧ t.atPhaseDecision := by
  cases i with
  | mov mas rs mad rd | add mas rs mad rd | sub mas rs mad rd | and mas rs mad rd | or mas rs mad rd | xor mas rs mad rd =>
    exact ⟨_, rfl, (resultStep_ends mad rd _).runTwoOperand rs rd hh hw⟩
  | cmp mas rs mad rd => exact ⟨_, rfl, (cmpStep_ends mad rd).runTwoOperand rs rd hh hw⟩
  | clr mad rd | neg mad rd | inc mad rd | dec mad rd | asl mad rd | asr mad rd | lsr mad rd | rol mad rd | ror mad rd
  | rlc mad rd | rrc mad rd => exact ⟨_, rfl, (resultStep_ends mad rd _).runOneOperand mad rd hh⟩
  | jmp mad rd => exact ⟨_, rfl, (jmpStep_ends mad rd).runOneOperand mad rd hh⟩
  | call mad rd => exact ⟨_, rfl, (callStep_ends mad rd).runOneOperand mad rd hh⟩
  | push mad rd => exact ⟨_, rfl, (pushStep_ends mad rd).runOneOperand mad rd hh⟩
  | pop mad rd => exact ⟨_, rfl, (popStep_ends mad rd).runOneOperand mad rd hh⟩
  | br disp | bne disp | beq disp | bpl disp | bcs disp | bcc disp | bvs disp | bvc disp =>
    exact ⟨_, rfl, branchStep_ends _ disp s hh⟩
  | clc | clv | clz | cls | sec | sev | sez | ses | ccc | scc => exact ⟨_, rfl, flagStep_ends _ s hh⟩
  | nop => exact ⟨_, rfl, nopStep_ends s hh⟩
  | ret | poppc => exact ⟨_, rfl, popPc_ends s hh⟩
  | popflag => exact ⟨_, rfl, popflagStep_ends s hh⟩
  | reti => exact ⟨_, rfl, interruptReturnStep_ends s hh⟩
  | pushpc => exact ⟨_, rfl, pushpcStep_ends s hh⟩
  | pushflag => exact ⟨_, rfl, pushflagStep_ends s hh⟩
  | halt => exact absurd rfl hhalt
  | wait => exact absurd rfl hwait

theorem State.endInstruction_eq (s : State) :
    s.endInstruction = if s.pending then s.gotoPhase .interrupt else s.gotoPhase .fetch :=
  apply_ite s.gotoPhase _ _ _

/-- Settles O15: the handler of every instruction but halt and wait leaves an ended instruction, in whatever state its
operands were resolved; halt, wait and reti by what their own handlers leave. -/
theorem everyInstructionEndsByThePhaseDecision : Obligations.EveryInstructionEndsByThePhaseDecision := by
  refine ⟨State.endInstruction_eq, fun _ _ => exec_atPhaseDecision, fun s hh => ⟨?_, ?_, ?_⟩⟩
  · exact ⟨_, rfl, congrArg State.halted (runHandler_halt s)⟩
  · exact ⟨_, rfl, congrArg State.phase (runHandler_wait s)⟩
  · exact ⟨_, rfl, congrArg State.phase (runHandler_interruptReturn s hh)⟩

end Sys2Proof.Machine
end

section
/-! The ALU (41_alu_flags.md R171, R172): the carry chain bit by bit, and the wide sum that it computes. -/

namespace Sys2Proof.Machine

/-! ## The carry chain, bit by bit -/

/-- The chain after its first `k` bits: the sum so far and the carry into bit `k` (41_alu_flags.md R171). -/
def chainPrefix (a b : Word) (seed : Bool) (k : Nat) : Word × Bool :=
  (List.range k).foldl (chainBit a b) (0#16, seed)

theorem addChain_eq_chainPrefix (a b : Word) (seed : Bool) : addChain a b seed = chainPrefix a b seed 16 := rfl

theorem chainPrefix_succ (a b : Word) (seed : Bool) (k : Nat) :
    chainPrefix a b seed (k + 1) = chainBit a b (chainPrefix a b seed k) k := by
  simp only [chainPrefix, List.range_succ, List.foldl_append, List.foldl_cons, List.foldl_nil]

/-- The carry out of a bit is the majority of its two operand bits and the carry into it. -/
theorem chainBit_carry (a b : Word) (acc : Word × Bool) (i : Nat) :
    (chainBit a b acc i).2 = Bool.atLeastTwo (a.getLsbD i) (b.getLsbD i) acc.2 := rfl

/-- A bit of the chain sets its own sum bit and keeps the others. -/
theorem chainBit_sum_getLsbD (a b : Word) (acc : Word × Bool) (i : Nat) {j : Nat} (hj : j < 16) :
    (chainBit a b acc i).1.getLsbD j =
      (acc.1.getLsbD j || (decide (j = i) && (a.getLsbD i ^^ b.getLsbD i ^^ acc.2))) := by
  simp only [chainBit, BitVec.getLsbD_or, BitVec.getLsbD_shiftLeft, BitVec.getLsbD_setWidth, BitVec.getLsbD_ofBool]
  rcases Nat.lt_trichotomy j i with hlt | rfl | hgt
  · simp [hlt, hlt.ne]
  · simp [hj]
  · simp [hgt.ne', Nat.sub_ne_zero_of_lt hgt]

/-- The carry into bit `k` is the one of wide addition. -/
theorem chainPrefix_carry (a b : Word) (seed : Bool) (k : Nat) :
    (chainPrefix a b seed k).2 = BitVec.carry k a b seed := by
  induction k with
  | zero => exact BitVec.carry_zero.symm
  | succ k ih => rw [chainPrefix_succ, chainBit_carry, ih, BitVec.carry_succ]

/-- After `k` bits the sum holds the low `k` bits of the wide sum, and 0 above them. -/
theorem chainPrefix_sum_getLsbD (a b : Word) (seed : Bool) (k : Nat) {j : Nat} (hj : j < 16) :
    (chainPrefix a b seed k).1.getLsbD j =
      (decide (j < k) && (a + b + (BitVec.ofBool seed).setWidth 16).getLsbD j) := by
  induction k with
  | zero => simp [chainPrefix]
  | succ k ih =>
    rw [chainPrefix_succ, chainBit_sum_getLsbD a b _ k hj, ih, chainPrefix_carry]
    by_cases hjk : j = k
    · subst hjk
      simp [BitVec.getLsbD_add_add_bool hj]
    · have hlt : j < k + 1 ↔ j < k := by omega
      simp [hjk, hlt]

/-! ## The chain is wide addition -/

theorem addChain_sum (a b : Word) (seed : Bool) :
    (addChain a b seed).1 = a + b + (BitVec.ofBool seed).setWidth 16 := by
  refine BitVec.eq_of_getLsbD_eq fun j hj => ?_
  rw [addChain_eq_chainPrefix, chainPrefix_sum_getLsbD a b seed 16 hj, decide_eq_true hj, Bool.true_and]

theorem addChain_carry (a b : Word) (seed : Bool) :
    (addChain a b seed).2 = decide (65536 ≤ a.toNat + b.toNat + seed.toNat) := by
  rw [addChain_eq_chainPrefix, chainPrefix_carry]
  exact BitVec.carry_width

theorem addChain_false (a b : Word) :
    addChain a b false = (a + b, decide (65536 ≤ a.toNat + b.toNat)) :=
  Prod.ext ((addChain_sum a b false).trans (BitVec.add_zero (a + b))) (addChain_carry a b false)

/-! ## ADD -/

@[simp] theorem flagC_packFlags (c z s v : Bool) : flagC (packFlags c z s v) = c := by
  decide +revert

@[simp] theorem aluAdd_rbus (d v : Word) : (aluAdd d v).rbus = (addChain d v false).1 := rfl

@[simp] theorem flagC_aluAdd (d v : Word) : flagC (aluAdd d v).flag = (addChain d v false).2 :=
  flagC_packFlags ..

/-- Settles O8, by `addChain_false`: the carries and the sum bits of the chain are those of wide addition. -/
theorem additionChainIsWideAddition : Obligations.AdditionChainIsWideAddition :=
  fun d v => ⟨addChain_false d v, aluAdd_rbus d v, flagC_aluAdd d v⟩

end Sys2Proof.Machine
end

section
/-! Two-operand instructions (42_class1_two_operand.md R200, R202): the flags of ADD by wide arithmetic, the impulses of the
handlers that write a result, and `add`. -/

namespace Sys2Proof.Machine

/-! ## The flags of ADD (41_alu_flags.md R172, R176, R180) -/

/-- Addends of the same sign carry out of bit 15 exactly when that sign is negative. -/
theorem carryOut_of_msb_eq {d v : Word} (h : d.msb = v.msb) : decide (65536 ≤ d.toNat + v.toNat) = d.msb := by
  cases hd : d.msb with
  | true =>
    have hdn := BitVec.msb_eq_true_iff_two_mul_ge.mp hd
    have hvn := BitVec.msb_eq_true_iff_two_mul_ge.mp (h ▸ hd)
    exact decide_eq_true (by omega)
  | false =>
    have hdn := BitVec.msb_eq_false_iff_two_mul_lt.mp hd
    have hvn := BitVec.msb_eq_false_iff_two_mul_lt.mp (h ▸ hd)
    exact decide_eq_false (by omega)

/-- The signed sum is out of range exactly when the addends have one sign and the sum has the other. -/
theorem signedSum_outOfRange (d v : Word) :
    decide (d.toInt + v.toInt < -32768 ∨ 32767 < d.toInt + v.toInt) = (d.msb == v.msb && ((d + v).msb ^^ d.msb)) :=
  calc decide (d.toInt + v.toInt < -32768 ∨ 32767 < d.toInt + v.toInt)
      = d.saddOverflow v := by
        rw [BitVec.saddOverflow, ← Bool.decide_or]
        exact decide_eq_decide.mpr (by omega)
    _ = (d.msb == v.msb && ((d + v).msb ^^ d.msb)) := BitVec.saddOverflow_eq d v

/-- The bit that the formula of V reads off the two buses says that their signs agree (41_alu_flags.md R176). -/
theorem msb_not_xor (d v : Word) : (~~~(v ^^^ d)).msb = (d.msb == v.msb) := by
  rw [BitVec.msb_not, BitVec.msb_xor]
  cases d.msb <;> cases v.msb <;> rfl

/-- V of ADD compares the sign of the sum with the carry, which is the sign of the addends when they have the same one. -/
theorem aluAdd_flag (d v : Word) : (aluAdd d v).flag = addFlags d v := by
  have hV : ((~~~(v ^^^ d)).msb && ((d + v).msb ^^ decide (65536 ≤ d.toNat + v.toNat))) =
      decide (d.toInt + v.toInt < -32768 ∨ 32767 < d.toInt + v.toInt) := by
    rw [signedSum_outOfRange, msb_not_xor]
    by_cases h : d.msb = v.msb
    · rw [carryOut_of_msb_eq h]
    · rw [beq_false_of_ne h, Bool.false_and, Bool.false_and]
  simp only [aluAdd, withZS, addFlags, addChain_false, hV]

theorem aluAdd_eq (d v : Word) : aluAdd d v = { rbus := d + v, flag := addFlags d v } :=
  congrArg₂ AluResult.mk ((aluAdd_rbus d v).trans (congrArg Prod.fst (addChain_false d v))) (aluAdd_flag d v)

/-! ## The result of a two-operand instruction (40_phase_control.md R152, R154) -/

/-- When Execute begins, `D` is the destination's value (40_phase_control.md R152). -/
theorem State.afterTwoOperands_destValue (s : State) (mas : Mode) (rs : Reg) (mad : Mode) (rd : Reg) :
    (s.afterTwoOperands mas rs mad rd).destValue mad rd = s.operandValue (pcAfterOperand s.pc mas) mad rd :=
  (State.afterOperand_destValue { s.afterOperand mas rs with t := s.operandValue s.pc mas rs } mad rd).trans
    (by cases mad <;> rfl)

/-- A Class1 instruction that writes a result, with a defined pair of modes, leaves its operation on the two operands'
values and the old FLAG. -/
theorem runTwoOperand_result {mas mad : Mode} (rs rd : Reg) (op : Word → Word → BitVec 4 → AluResult) {s : State}
    (hh : s.halted = false) (hd : combinationDefined mas mad = true) :
    runTwoOperand mas rs mad rd (resultStep mad rd op) s =
      s.twoOperandResult mas rs mad rd fun d v => ((op d v s.flag).rbus, (op d v s.flag).flag) := by
  rw [runTwoOperand_eq mas rs mad rd _ s hh hd,
    runHandler_result mad rd op (s.afterTwoOperands mas rs mad rd) hh, State.afterTwoOperands_destValue]
  rfl

/-! ## The impulses of Execute -/

/-- In Execute, `advance()` performs the line that the counter names of the handler that IR selects, on the incremented
counter (40_phase_control.md R130, R153). -/
theorem State.advance_execute {s : State} {i : Instr} {n : Nat} (hh : s.halted = false) (hp : s.phase = .execute)
    (hd : decodeWord s.ir = .ok i) (hn : s.impulse = n) : s.advance = handler i n s.tick := by
  simp [State.advance, hh, hp, executeStep, hd, hn]

/-- Impulse 1 of a register destination writes FLAG and the register, and is the last (40_phase_control.md R154). -/
theorem resultStep_one_register (rd : Reg) (op : Word → Word → BitVec 4 → AluResult) (s : State) :
    resultStep .modeB rd op 1 s.tick =
      State.ended { s with
        flag := (op (s.destValue .modeB rd) s.t s.flag).flag
        regs := s.regs.set rd.val (op (s.destValue .modeB rd) s.t s.flag).rbus } := rfl

/-- Impulse 1 of a memory destination writes FLAG and MDR (40_phase_control.md R154). -/
theorem resultStep_one_memory {mad : Mode} (hm : mad ≠ .modeB) (rd : Reg) (op : Word → Word → BitVec 4 → AluResult)
    (s : State) :
    resultStep mad rd op 1 s.tick =
      { s with
        flag := (op (s.destValue mad rd) s.t s.flag).flag
        mdr := (op (s.destValue mad rd) s.t s.flag).rbus
        impulse := s.impulse + 1 } :=
  if_neg hm

/-- Impulse 2 of a memory destination writes MDR at ADR, and is the last (40_phase_control.md R154). -/
theorem resultStep_two_memory {mad : Mode} (hm : mad ≠ .modeB) (rd : Reg) (op : Word → Word → BitVec 4 → AluResult)
    (s : State) :
    resultStep mad rd op 2 s.tick = State.ended { s with mem := Memory.writeWord s.mem s.adr s.mdr } :=
  if_neg hm

/-! ## `add` (42_class1_two_operand.md R202) -/

theorem decodeWord_encode_add (mas : Mode) (rs : Reg) (mad : Mode) (rd : Reg) :
    decodeWord (encode (.add mas rs mad rd)) = .ok (.add mas rs mad rd) := by
  simp only [encode, decodeWord_class1 (classOf_encodeClass1 ..), decodeClass1, fieldOpc1_encodeClass1,
    fieldMas_encodeClass1, fieldRs_encodeClass1, fieldMad_encodeClass1, fieldRd_encodeClass1]
  rfl

/-- The lines of `add` write the sum and its flags by wide arithmetic. -/
theorem addStep_eq (mad : Mode) (rd : Reg) :
    addStep mad rd = resultStep mad rd fun d v _ => { rbus := d + v, flag := addFlags d v } := by
  simp only [addStep, aluAdd_eq]

theorem exec_add {mas mad : Mode} (rs rd : Reg) {s : State} (hh : s.halted = false)
    (hd : combinationDefined mas mad = true) :
    exec (.add mas rs mad rd) s = .next (s.twoOperandResult mas rs mad rd fun d v => (d + v, addFlags d v)) := by
  have hrun : exec (.add mas rs mad rd) s = .next (runTwoOperand mas rs mad rd (addStep mad rd) s) := rfl
  rw [hrun, addStep_eq, runTwoOperand_result rs rd _ hh hd]

/-- In Execute of `add`, `advance()` is the line that the counter names. -/
theorem State.advance_add {mas mad : Mode} {rs rd : Reg} {s : State} {n : Nat} (hh : s.halted = false)
    (hp : s.phase = .execute) (hir : s.ir = encode (.add mas rs mad rd)) (hn : s.impulse = n) :
    s.advance = resultStep mad rd (fun d v _ => { rbus := d + v, flag := addFlags d v }) n s.tick := by
  rw [← addStep_eq]
  exact State.advance_execute hh hp (hir ▸ decodeWord_encode_add mas rs mad rd) hn

/-- Settles O34: the whole instruction is its handler on the resolved operands; each impulse is the line of the handler that
the counter names, with the ALU's sum and flags those of wide arithmetic. -/
theorem addResult : Obligations.AddResult := by
  refine fun mas rs mad rd s hh hd => ⟨exec_add rs rd hh hd, fun hp hir => ⟨?_, fun hm hi => ?_, fun hm hi => ?_⟩⟩
  · rintro rfl hi
    rw [State.advance_add hh hp hir hi, resultStep_one_register]
  · rw [State.advance_add hh hp hir hi, resultStep_one_memory hm, hi]
  · rw [State.advance_add hh hp hir hi, resultStep_two_memory hm]

end Sys2Proof.Machine
end

section
/-! Class4 control instructions (45_class4_control.md): the calls of `advance()` that fetch and run a one-impulse instruction,
and the flag instructions, `halt` and `nop`. -/

namespace Sys2Proof.Machine

/-! ## Calls of `advance()` -/

theorem State.advance_of_halted {s : State} (hh : s.halted = true) : s.advance = s :=
  if_pos hh

theorem State.advanceReturns_of_halted {s : State} (hh : s.halted = true) : s.advanceReturns = false := by
  rw [State.advanceReturns, State.advance_of_halted hh, hh]
  rfl

/-- A halted core keeps its whole state (60_exceptions.md R340). -/
theorem State.advances_of_halted {s : State} (hh : s.halted = true) (k : Nat) : State.advances k s = s := by
  induction k with
  | zero => rfl
  | succ k ih => rw [State.advances, State.advance_of_halted hh, ih]

/-- Impulse 3 of Fetch, on a legal word: the phase decision (40_phase_control.md R141). -/
theorem fetchStep_three {s : State} {i : Instr} (hd : decodeWord s.ir = .ok i) :
    fetchStep 3 s.tick = s.gotoPhase (phaseAfterFetch s.ir) := by
  have hir : decodeWord s.tick.ir = .ok i := hd
  simp only [fetchStep, hir]
  rfl

/-- The three calls that fetch a legal word (40_phase_control.md R139 to R141). -/
theorem State.advances_fetch {s : State} {i : Instr} (hb : s.atBoundary) (hd : decodeWord (s.memRead s.pc) = .ok i) :
    State.advances 3 s = s.fetched.gotoPhase (phaseAfterFetch (s.memRead s.pc)) := by
  obtain ⟨hh, hp, hi⟩ := hb
  obtain ⟨hone, -⟩ := fetchReadsTheWordAtPc s hh hp
  obtain ⟨-, htwo⟩ := fetchReadsTheWordAtPc { s with adr := s.pc, impulse := 2 } hh hp
  have hread : s.advance.advance = { s.fetched with impulse := 3 } := (congrArg State.advance (hone hi)).trans (htwo rfl)
  calc State.advances 3 s
      = ({ s.fetched with impulse := 3 } : State).advance := congrArg State.advance hread
    _ = fetchStep 3 ({ s.fetched with impulse := 3 } : State).tick := State.advance_fetch hh hp
    _ = s.fetched.gotoPhase (phaseAfterFetch (s.memRead s.pc)) := fetchStep_three hd

/-- The fourth call runs line 1 of the handler, when Fetch goes straight to Execute (40_phase_control.md R141, R153). -/
theorem State.advances_fetch_execute {s : State} {i : Instr} (hb : s.atBoundary)
    (hd : decodeWord (s.memRead s.pc) = .ok i) (hx : phaseAfterFetch (s.memRead s.pc) = .execute) :
    State.advances 4 s = handler i 1 (s.fetched.gotoPhase .execute).tick :=
  calc State.advances 4 s
      = (s.fetched.gotoPhase .execute).advance := congrArg State.advance ((State.advances_fetch hb hd).trans (by rw [hx]))
    _ = handler i 1 (s.fetched.gotoPhase .execute).tick := State.advance_execute hb.1 rfl hd rfl

/-- A step is 4 calls of `advance()` when line 1 is the whole instruction (70_reset_and_hazards.md R389). -/
theorem step_eq_advances_four {s : State} {i : Instr} (hb : s.atBoundary) (hd : decodeWord (s.memRead s.pc) = .ok i)
    (hx : phaseAfterFetch (s.memRead s.pc) = .execute)
    (hline : exec i (s.fetched.gotoPhase .execute) = .next (handler i 1 (s.fetched.gotoPhase .execute).tick)) :
    step s = .next (State.advances 4 s) := by
  rw [step_of_decodeWord hb hd, hx, hline, State.advances_fetch_execute hb hd hx]

/-! ## The flag instructions (45_class4_control.md R291 to R300) -/

/-- C is bit 3 of FLAG (10_state.md R25). -/
theorem setC_eq (f : BitVec 4) (b : Bool) : setC f b = bif b then f ||| 0b1000#4 else f &&& 0b0111#4 := by
  decide +revert

/-- Z is bit 2 of FLAG (10_state.md R25). -/
theorem setZ_eq (f : BitVec 4) (b : Bool) : setZ f b = bif b then f ||| 0b0100#4 else f &&& 0b1011#4 := by
  decide +revert

/-- S is bit 1 of FLAG (10_state.md R25). -/
theorem setS_eq (f : BitVec 4) (b : Bool) : setS f b = bif b then f ||| 0b0010#4 else f &&& 0b1101#4 := by
  decide +revert

/-- V is bit 0 of FLAG (10_state.md R25). -/
theorem setV_eq (f : BitVec 4) (b : Bool) : setV f b = bif b then f ||| 0b0001#4 else f &&& 0b1110#4 := by
  decide +revert

/-- The one line writes FLAG and ends the instruction. -/
theorem flagStep_one (f : BitVec 4 → BitVec 4) (s : State) :
    flagStep f 1 s.tick = State.ended { s with flag := f s.flag } := rfl

/-- `i` is the instruction of the word `w`, and its only line writes `f` of FLAG to FLAG. -/
structure IsFlagInstruction (i : Instr) (w : Word) (f : BitVec 4 → BitVec 4) : Prop where
  encode_eq : encode i = w
  decode_eq : decodeWord w = .ok i
  handler_eq : handler i = flagStep f
  exec_eq : ∀ s, exec i s = .next (runHandler (flagStep f) s)

/-- The word, the meaning and the single Execute impulse of a flag instruction that leaves `v` in FLAG. -/
theorem IsFlagInstruction.result {i : Instr} {w : Word} {f : BitVec 4 → BitVec 4} (h : IsFlagInstruction i w f) {s : State}
    (hh : s.halted = false) {v : BitVec 4} (hv : f s.flag = v) :
    encode i = w ∧ exec i s = .next (State.ended { s with flag := v }) ∧
      (s.phase = .execute → s.impulse = 1 → s.ir = w → s.advance = State.ended { s with flag := v }) := by
  subst hv
  refine ⟨h.encode_eq, ?_, fun hp hi hir => ?_⟩
  · rw [h.exec_eq, runHandler_flag f s hh]
  · rw [State.advance_execute hh hp (hir ▸ h.decode_eq) hi, h.handler_eq, flagStep_one]

/-- Settles O44: each of the ten has a flag handler, which is over in its one line, and each writes the mask of its flag. -/
theorem flagInstructionResults : Obligations.FlagInstructionResults := by
  intro s hh
  simp only [List.forall_mem_cons]
  refine ⟨?clc, ?clv, ?clz, ?cls, ?sec, ?sev, ?sez, ?ses, ?ccc, ?scc, nofun⟩
  case clc => exact IsFlagInstruction.result ⟨rfl, rfl, rfl, fun _ => rfl⟩ hh (setC_eq s.flag false)
  case clv => exact IsFlagInstruction.result ⟨rfl, rfl, rfl, fun _ => rfl⟩ hh (setV_eq s.flag false)
  case clz => exact IsFlagInstruction.result ⟨rfl, rfl, rfl, fun _ => rfl⟩ hh (setZ_eq s.flag false)
  case cls => exact IsFlagInstruction.result ⟨rfl, rfl, rfl, fun _ => rfl⟩ hh (setS_eq s.flag false)
  case sec => exact IsFlagInstruction.result ⟨rfl, rfl, rfl, fun _ => rfl⟩ hh (setC_eq s.flag true)
  case sev => exact IsFlagInstruction.result ⟨rfl, rfl, rfl, fun _ => rfl⟩ hh (setV_eq s.flag true)
  case sez => exact IsFlagInstruction.result ⟨rfl, rfl, rfl, fun _ => rfl⟩ hh (setZ_eq s.flag true)
  case ses => exact IsFlagInstruction.result ⟨rfl, rfl, rfl, fun _ => rfl⟩ hh (setS_eq s.flag true)
  case ccc => exact IsFlagInstruction.result (f := fun _ => 0b0000#4) ⟨rfl, rfl, rfl, fun _ => rfl⟩ hh rfl
  case scc => exact IsFlagInstruction.result (f := fun _ => 0b1111#4) ⟨rfl, rfl, rfl, fun _ => rfl⟩ hh rfl

/-! ## `halt` and `nop` (45_class4_control.md R301, R307) -/

theorem exec_halt (s : State) :
    exec .halt s = .next { s with phase := .execute, impulse := 2, halted := true, reason := some .haltEncountered } :=
  congrArg _ (runHandler_halt s)

theorem exec_nop {s : State} (hh : s.halted = false) : exec .nop s = .next s.ended :=
  congrArg _ (runHandler_nop s hh)

/-- The fourth call on `halt` halts the core, past the word. -/
theorem State.advances_halt {s : State} (hb : s.atBoundary) (hw : s.memRead s.pc = 0xE00D#16) :
    State.advances 4 s = (s.fetched.gotoPhase .execute).tick.halt .haltEncountered :=
  State.advances_fetch_execute (i := .halt) hb (hw ▸ rfl) (hw ▸ rfl)

theorem step_halt {s : State} (hb : s.atBoundary) (hw : s.memRead s.pc = 0xE00D#16) :
    step s = .next (State.advances 4 s) :=
  step_eq_advances_four (i := .halt) hb (hw ▸ rfl) (hw ▸ rfl) (exec_halt _)

theorem step_nop {s : State} (hb : s.atBoundary) (hw : s.memRead s.pc = 0xE00A#16) :
    step s = .next (State.advances 4 s) :=
  step_eq_advances_four (i := .nop) hb (hw ▸ rfl) (hw ▸ rfl) (exec_nop hb.1)

/-- Settles O49: the call that runs `halt` leaves a halted core, which no later call changes. -/
theorem haltResult : Obligations.HaltResult := by
  refine ⟨fun s _ => exec_halt s, rfl, fun s hb hw => ?_⟩
  have hrun := State.advances_halt hb hw
  have hhalted : (State.advances 4 s).halted = true := congrArg State.halted hrun
  have hreturns : (State.advances 3 s).advanceReturns = false := congrArg not hhalted
  refine ⟨_, step_halt hb hw, rfl, hreturns, congrArg State.pc hrun, congrArg State.haltReason hrun, fun k => ?_⟩
  rw [State.advances_of_halted hhalted k]
  exact ⟨rfl, State.advanceReturns_of_halted hhalted⟩

/-- Settles O45: the handler is the phase decision alone, and its one line is the fourth impulse. -/
theorem nopResult : Obligations.NopResult :=
  ⟨fun _ => exec_nop, fun _ => step_nop⟩

end Sys2Proof.Machine
end

section
/-! Exceptions (60_exceptions.md): an illegal word halts the core in its Fetch phase. -/

namespace Sys2Proof.Machine

/-! ## Fetching an illegal word (60_exceptions.md R342) -/

/-- The two calls that read the word, legal or not (40_phase_control.md R139, R140). -/
theorem State.advances_readWord {s : State} (hb : s.atBoundary) :
    State.advances 2 s = { s.fetched with impulse := 3 } := by
  obtain ⟨hh, hp, hi⟩ := hb
  obtain ⟨hadr, -⟩ := fetchReadsTheWordAtPc s hh hp
  obtain ⟨-, hread⟩ := fetchReadsTheWordAtPc { s with adr := s.pc, impulse := 2 } hh hp
  calc State.advances 2 s
      = ({ s with adr := s.pc, impulse := 2 } : State).advance := congrArg State.advance (hadr hi)
    _ = { s.fetched with impulse := 3 } := hread rfl

/-- Impulse 3 of Fetch, on an illegal word: no phase decision is made (40_phase_control.md R141). -/
theorem fetchStep_three_illegal {s : State} {e : DecodeError} (hd : decodeWord s.ir = .error e) :
    fetchStep 3 s.tick = s.tick.halt .illegalInstruction := by
  have hir : decodeWord s.tick.ir = .error e := hd
  simp only [fetchStep, hir]

/-- The third call detects the illegal word (60_exceptions.md R342). -/
theorem State.advances_fetch_illegal {s : State} {e : DecodeError} (hb : s.atBoundary)
    (hd : decodeWord (s.memRead s.pc) = .error e) : State.advances 3 s = s.fetched.halt .illegalInstruction := by
  have ⟨hh, hp, _⟩ := hb
  calc State.advances 3 s
      = ({ s.fetched with impulse := 3 } : State).advance := congrArg State.advance (State.advances_readWord hb)
    _ = fetchStep 3 ({ s.fetched with impulse := 3 } : State).tick := State.advance_fetch hh hp
    _ = s.fetched.halt .illegalInstruction := fetchStep_three_illegal hd

/-- At a boundary, a step on an illegal word is the Fetch phase alone. -/
theorem step_of_illegalWord {s : State} {e : DecodeError} (hb : s.atBoundary)
    (hd : decodeWord (s.memRead s.pc) = .error e) : step s = .next (s.fetched.halt .illegalInstruction) := by
  obtain ⟨hh, hp, hi⟩ := hb
  have hf : runFetch s = s.fetched.halt .illegalInstruction := by
    rw [runFetch_eq s hh hp hi, hd]
  have hir : decodeWord s.fetched.ir = .error e := hd
  simp [step, hh, hp, hi, hf, hir]

/-- Settles O18: both the step and the three calls stop in the state that has read the word and halted. -/
theorem illegalWordStopsAtFetchImpulseThree : Obligations.IllegalWordStopsAtFetchImpulseThree := by
  rintro s hb ⟨e, hd⟩
  have hstep : step s = .next (s.fetched.halt .illegalInstruction) := step_of_illegalWord hb hd
  exact ⟨hstep, hstep.trans (congrArg _ (State.advances_fetch_illegal hb hd).symm)⟩

end Sys2Proof.Machine
end

section
/-! Encoding (30_encoding.md R90 to R105): the class of a word by its range, the fields put together again, and the two
directions of decoding. -/

namespace Sys2Proof

/-! ## The class of a word (30_encoding.md R91) -/

theorem toNat_field (w : Word) (k n : Nat) : (w.extractLsb' k n).toNat = w.toNat / 2 ^ k % 2 ^ n := by
  rw [BitVec.extractLsb'_toNat, Nat.shiftRight_eq_div_pow]

/-- The top bits cut the words into ranges. -/
theorem classOf_eq_ite (w : Word) :
    classOf w =
      if w.toNat < 0x8000 then some .class1
      else if w.toNat < 0xA000 then some .class2
      else if w.toNat < 0xC000 then none
      else if w.toNat < 0xE000 then some .class3
      else some .class4 := by
  have hlt : w.toNat < 65536 := w.isLt
  have htop : (w.extractLsb' 13 2).toNat = w.toNat / 8192 % 4 := toNat_field w 13 2
  unfold classOf
  split
  · next hm =>
    have h1 := BitVec.msb_eq_false_iff_two_mul_lt.mp hm
    rw [if_pos (by omega)]
  · next hm =>
    have h1 := BitVec.msb_eq_true_iff_two_mul_ge.mp (Bool.eq_true_of_not_eq_false hm)
    rw [if_neg (by omega)]
    split
    · rw [if_pos (by omega)]
    · rw [if_neg (by omega), if_neg (by omega), if_pos (by omega)]
    · rw [if_neg (by omega), if_neg (by omega), if_neg (by omega)]
    · next h0 h2 h3 =>
      rw [htop, imp_false] at h0 h2 h3
      rw [if_neg (by omega), if_pos (by omega)]

theorem classOf_eq_class1 {w : Word} : classOf w = some .class1 ↔ w.toNat < 0x8000 := by
  rw [classOf_eq_ite]
  grind

theorem classOf_eq_class2 {w : Word} : classOf w = some .class2 ↔ 0x8000 ≤ w.toNat ∧ w.toNat < 0xA000 := by
  rw [classOf_eq_ite]
  grind

theorem classOf_eq_none {w : Word} : classOf w = none ↔ 0xA000 ≤ w.toNat ∧ w.toNat < 0xC000 := by
  rw [classOf_eq_ite]
  grind

theorem classOf_eq_class3 {w : Word} : classOf w = some .class3 ↔ 0xC000 ≤ w.toNat ∧ w.toNat < 0xE000 := by
  rw [classOf_eq_ite]
  grind

theorem classOf_eq_class4 {w : Word} : classOf w = some .class4 ↔ 0xE000 ≤ w.toNat := by
  rw [classOf_eq_ite]
  grind

theorem field_eq_of_toNat {w : Word} {k n b : Nat} (h : w.toNat / 2 ^ k % 2 ^ n = b) :
    w.extractLsb' k n = BitVec.ofNat n b :=
  BitVec.eq_of_toNat_eq (by rw [toNat_field, BitVec.toNat_ofNat, ← h, Nat.mod_mod])

/-! ## Decoding what was encoded -/

theorem decodeWord_encode_class1 {i : Instr} (h : i.instrClass = .class1) : decodeWord (encode i) = .ok i := by
  cases i with
  | mov mas rs mad rd | add mas rs mad rd | sub mas rs mad rd | cmp mas rs mad rd | and mas rs mad rd | or mas rs mad rd
  | xor mas rs mad rd =>
    simp only [encode, decodeWord_class1 (classOf_encodeClass1 ..), decodeClass1, fieldOpc1_encodeClass1,
      fieldMas_encodeClass1, fieldRs_encodeClass1, fieldMad_encodeClass1, fieldRd_encodeClass1]
    rfl
  | _ => exact nomatch h

theorem decodeWord_encode_class2 {i : Instr} (h : i.instrClass = .class2) : decodeWord (encode i) = .ok i := by
  cases i with
  | clr mad rd | neg mad rd | inc mad rd | dec mad rd | asl mad rd | asr mad rd | lsr mad rd | rol mad rd | ror mad rd
  | rlc mad rd | rrc mad rd | jmp mad rd | call mad rd | push mad rd | pop mad rd =>
    simp only [encode, decodeWord_class2 (classOf_encodeClass2 ..), decodeClass2, fieldOpc2_encodeClass2,
      fieldMad_encodeClass2, fieldRd_encodeClass2]
    rfl
  | _ => exact nomatch h

theorem decodeWord_encode_class3 {i : Instr} (h : i.instrClass = .class3) : decodeWord (encode i) = .ok i := by
  cases i with
  | br disp | bne disp | beq disp | bpl disp | bcs disp | bcc disp | bvs disp | bvc disp =>
    simp only [encode, decodeWord_class3 (classOf_encodeClass3 ..), decodeClass3, fieldOpc3_encodeClass3,
      fieldDisp_encodeClass3]
    rfl
  | _ => exact nomatch h

/-- A Class4 instruction has no field, so its word is one value. -/
theorem decodeWord_encode_class4 {i : Instr} (h : i.instrClass = .class4) : decodeWord (encode i) = .ok i := by
  cases i with
  | clc | clv | clz | cls | sec | sev | sez | ses | ccc | scc | nop | ret | reti | halt | wait | pushpc | poppc | pushflag
  | popflag => rfl
  | _ => exact nomatch h

theorem decodeWord_encode (i : Instr) : decodeWord (encode i) = .ok i := by
  cases hc : i.instrClass with
  | class1 => exact decodeWord_encode_class1 hc
  | class2 => exact decodeWord_encode_class2 hc
  | class3 => exact decodeWord_encode_class3 hc
  | class4 => exact decodeWord_encode_class4 hc

/-- The decoder reads the word that the first two bytes hold, low byte first. -/
theorem decode_wordBytes (w : Word) (rest : List Byte) {i : Instr} (h : decodeWord w = .ok i) :
    decode (wordBytes w ++ rest) = .ok (i, rest) := by
  simp only [wordBytes, List.cons_append, List.nil_append, decode, Machine.word_of_halves, h]

/-- Settles O1: every field of an encoded word reads back, class by class, and the word's two bytes are the first two. -/
theorem decodeOfEncodeIsTheInstruction : Obligations.DecodeOfEncodeIsTheInstruction :=
  fun i _ => ⟨decodeWord_encode i, decode_wordBytes (encode i) _ (decodeWord_encode i)⟩

/-! ## Encoding what was decoded -/

section Fields

variable {w : Word}

/-- Neighbouring fields side by side are one field. -/
theorem field_append_field (w : Word) (k m n : Nat) :
    w.extractLsb' (k + n) m ++ w.extractLsb' k n = w.extractLsb' k (m + n) :=
  BitVec.extractLsb'_append_extractLsb'_eq_extractLsb' rfl

theorem encodeClass1_fields (h : classOf w = some .class1) :
    encodeClass1 (fieldOpc1 w) (fieldMas w) (fieldRs w) (fieldMad w) (fieldRd w) = w := by
  have htop : w.extractLsb' 15 1 = 0#1 := field_eq_of_toNat (by have := classOf_eq_class1.mp h; omega)
  calc encodeClass1 (fieldOpc1 w) (fieldMas w) (fieldRs w) (fieldMad w) (fieldRd w)
      = w.extractLsb' 15 1 ++ w.extractLsb' 12 3 ++ w.extractLsb' 10 2 ++ w.extractLsb' 6 4 ++ w.extractLsb' 4 2 ++
          w.extractLsb' 0 4 := by
        simp only [encodeClass1, fieldMas, fieldMad, Mode.bits_ofBits, htop]
        rfl
    _ = w := by
        rw [field_append_field w 12 1 3, field_append_field w 10 4 2, field_append_field w 6 6 4,
          field_append_field w 4 10 2, field_append_field w 0 12 4, extract_whole]

theorem encodeClass2_fields (h : classOf w = some .class2) :
    encodeClass2 (fieldOpc2 w) (fieldMad w) (fieldRd w) = w := by
  have htop : w.extractLsb' 13 3 = 0b100#3 := field_eq_of_toNat (by have := classOf_eq_class2.mp h; omega)
  calc encodeClass2 (fieldOpc2 w) (fieldMad w) (fieldRd w)
      = w.extractLsb' 13 3 ++ w.extractLsb' 6 7 ++ w.extractLsb' 4 2 ++ w.extractLsb' 0 4 := by
        simp only [encodeClass2, fieldMad, Mode.bits_ofBits, htop]
        rfl
    _ = w := by
        rw [field_append_field w 6 3 7, field_append_field w 4 10 2, field_append_field w 0 12 4, extract_whole]

theorem encodeClass3_fields (h : classOf w = some .class3) : encodeClass3 (fieldOpc3 w) (fieldDisp w) = w := by
  have htop : w.extractLsb' 13 3 = 0b110#3 := field_eq_of_toNat (by have := classOf_eq_class3.mp h; omega)
  rw [encodeClass3, ← htop]
  exact (congrArg (· ++ fieldDisp w) (field_append_field w 8 3 5)).trans
    ((field_append_field w 0 8 8).trans (extract_whole w))

theorem encodeClass4_fields (h : classOf w = some .class4) : encodeClass4 (fieldOpc4 w) = w := by
  have hlt : w.toNat < 65536 := w.isLt
  have htop : w.extractLsb' 13 3 = 0b111#3 := field_eq_of_toNat (by have := classOf_eq_class4.mp h; omega)
  rw [encodeClass4, ← htop]
  exact (field_append_field w 0 3 13).trans (extract_whole w)

end Fields

theorem encode_of_decodeClass1 {w : Word} {i : Instr} (hc : classOf w = some .class1) (h : decodeClass1 w = .ok i) :
    encode i = w := by
  refine Eq.trans ?_ (encodeClass1_fields hc)
  unfold decodeClass1 at h
  split at h <;> cases h <;> next ho => exact congrArg (encodeClass1 · _ _ _ _) (BitVec.eq_of_toNat_eq ho.symm)

theorem encode_of_decodeClass2 {w : Word} {i : Instr} (hc : classOf w = some .class2) (h : decodeClass2 w = .ok i) :
    encode i = w := by
  refine Eq.trans ?_ (encodeClass2_fields hc)
  unfold decodeClass2 at h
  split at h <;> cases h <;> next ho => exact congrArg (encodeClass2 · _ _) (BitVec.eq_of_toNat_eq ho.symm)

theorem encode_of_decodeClass3 {w : Word} {i : Instr} (hc : classOf w = some .class3) (h : decodeClass3 w = .ok i) :
    encode i = w := by
  refine Eq.trans ?_ (encodeClass3_fields hc)
  unfold decodeClass3 at h
  split at h <;> cases h <;> next ho => exact congrArg (encodeClass3 · _) (BitVec.eq_of_toNat_eq ho.symm)

theorem encode_of_decodeClass4 {w : Word} {i : Instr} (hc : classOf w = some .class4) (h : decodeClass4 w = .ok i) :
    encode i = w := by
  refine Eq.trans ?_ (encodeClass4_fields hc)
  unfold decodeClass4 at h
  split at h <;> cases h <;> next ho => exact congrArg encodeClass4 (BitVec.eq_of_toNat_eq ho.symm)

theorem decodeWord_noClass {w : Word} (h : classOf w = none) : decodeWord w = .error .noClass := by
  simp [decodeWord, h]

/-- Settles O2: a decoder's arm gives the opcode field its value, and the fields of a word put together are the word. -/
theorem encodeOfDecodedWordIsTheWord : Obligations.EncodeOfDecodedWordIsTheWord := by
  intro w i h
  cases hc : classOf w with
  | none =>
    rw [decodeWord_noClass hc] at h
    cases h
  | some c =>
    cases c with
    | class1 => exact encode_of_decodeClass1 hc (decodeWord_class1 hc ▸ h)
    | class2 => exact encode_of_decodeClass2 hc (decodeWord_class2 hc ▸ h)
    | class3 => exact encode_of_decodeClass3 hc (decodeWord_class3 hc ▸ h)
    | class4 => exact encode_of_decodeClass4 hc (decodeWord_class4 hc ▸ h)

/-! ## The illegal words (30_encoding.md R105) -/

theorem decodeClass1_error {w : Word} {e : DecodeError} :
    decodeClass1 w = .error e ↔ e = .illegalClass1 ∧ 7 ≤ w.toNat / 4096 % 8 := by
  have ho : (fieldOpc1 w).toNat = w.toNat / 4096 % 8 := toNat_field w 12 3
  unfold decodeClass1
  split
  case h_8 => grind
  all_goals exact ⟨nofun, fun h => absurd h.2 (by omega)⟩

theorem decodeClass2_error {w : Word} {e : DecodeError} :
    decodeClass2 w = .error e ↔ e = .illegalClass2 ∧ 15 ≤ w.toNat / 64 % 128 := by
  have ho : (fieldOpc2 w).toNat = w.toNat / 64 % 128 := toNat_field w 6 7
  unfold decodeClass2
  split
  case h_16 => grind
  all_goals exact ⟨nofun, fun h => absurd h.2 (by omega)⟩

theorem decodeClass3_error {w : Word} {e : DecodeError} :
    decodeClass3 w = .error e ↔ e = .illegalClass3 ∧ 8 ≤ w.toNat / 256 % 32 := by
  have ho : (fieldOpc3 w).toNat = w.toNat / 256 % 32 := toNat_field w 8 5
  unfold decodeClass3
  split
  case h_9 => grind
  all_goals exact ⟨nofun, fun h => absurd h.2 (by omega)⟩

theorem decodeClass4_error {w : Word} {e : DecodeError} :
    decodeClass4 w = .error e ↔ e = .illegalClass4 ∧ 19 ≤ w.toNat % 8192 := by
  have ho : (fieldOpc4 w).toNat = w.toNat % 8192 := (toNat_field w 0 13).trans (by simp)
  unfold decodeClass4
  split
  case h_20 => grind
  all_goals exact ⟨nofun, fun h => absurd h.2 (by omega)⟩

/-- Settles O3: the range of a class, cut by the opcodes that it leaves illegal. -/
theorem illegalWordsAreTheFiveRanges : Obligations.IllegalWordsAreTheFiveRanges := by
  intro w
  have hlt : w.toNat < 65536 := w.isLt
  cases hc : classOf w with
  | none =>
    have hr := classOf_eq_none.mp hc
    simp only [decodeWord_noClass hc, Except.error.injEq, reduceCtorEq, false_iff, true_iff, ne_eq, not_false_eq_true,
      and_true]
    omega
  | some c =>
    cases c with
    | class1 =>
      have hr := classOf_eq_class1.mp hc
      simp only [decodeWord_class1 hc, decodeClass1_error, ne_eq, reduceCtorEq, false_and, true_and, false_iff,
        not_false_eq_true, and_true]
      omega
    | class2 =>
      have hr := classOf_eq_class2.mp hc
      simp only [decodeWord_class2 hc, decodeClass2_error, ne_eq, reduceCtorEq, false_and, true_and, false_iff,
        not_false_eq_true, and_true]
      omega
    | class3 =>
      have hr := classOf_eq_class3.mp hc
      simp only [decodeWord_class3 hc, decodeClass3_error, ne_eq, reduceCtorEq, false_and, true_and, false_iff,
        not_false_eq_true, and_true]
      omega
    | class4 =>
      have hr := classOf_eq_class4.mp hc
      simp only [decodeWord_class4 hc, decodeClass4_error, ne_eq, reduceCtorEq, false_and, true_and, false_iff,
        not_false_eq_true, and_true]
      omega

/-- Settles O4: the five words are read field by field. -/
theorem sampleWordsDecode : Obligations.SampleWordsDecode := by
  unfold Obligations.SampleWordsDecode
  decide

end Sys2Proof
end

section
/-! Memory and the host's calls (20_memory.md R61 to R68, 60_exceptions.md R350, 70_reset_and_hazards.md R380): the value of
a word read, the image that is loaded, and the state after reset. -/

namespace Sys2Proof.Machine

/-! ## A word read (20_memory.md R61) -/

/-- The value of a high byte above a low byte. -/
theorem toNat_byte_append (hi lo : Byte) : (hi ++ lo : Word).toNat = 256 * hi.toNat + lo.toNat := by
  rw [BitVec.toNat_append, ← Nat.shiftLeft_add_eq_or_of_lt lo.isLt, Nat.shiftLeft_eq, Nat.mul_comm]

/-- Settles O7: the two bytes stand side by side, and the address of the high one wraps. -/
theorem wordReadIsLittleEndianAtAnyAddress : Obligations.WordReadIsLittleEndianAtAnyAddress := by
  intro s a
  rw [← word_succ_toNat]
  exact toNat_byte_append _ _

/-! ## Loading an image (20_memory.md R66 to R68) -/

/-- Bytes written at rising addresses read back, and every other address is left alone. -/
theorem Memory.read_writeBytes (bs : List Byte) (m : Memory) (a b : Nat) :
    Memory.read (Memory.writeBytes m a bs) b =
      if a ≤ b ∧ b < a + bs.length then bs.getD (b - a) 0#8 else Memory.read m b := by
  induction bs generalizing m a with
  | nil => simp [Memory.writeBytes, show ¬(a ≤ b ∧ b < a) by omega]
  | cons x bs ih =>
    rw [Memory.writeBytes, ih, Memory.read_write, List.length_cons]
    by_cases hb : b = a
    · subst hb
      rw [if_neg (by omega), if_pos rfl, if_pos (by omega), Nat.sub_self]
      rfl
    · by_cases hin : a + 1 ≤ b ∧ b < a + 1 + bs.length
      · obtain ⟨k, rfl⟩ : ∃ k, b = a + 1 + k := ⟨b - (a + 1), by omega⟩
        rw [if_pos hin, if_pos (by omega), show a + 1 + k - (a + 1) = k by omega, show a + 1 + k - a = k + 1 by omega]
        rfl
      · rw [if_neg hin, if_neg hb, if_neg (by omega)]

theorem resetByte_eq (a : Nat) : resetByte a = if a = 1000 then 0x0C#8 else if a = 1001 then 0xE0#8 else 0x00#8 := rfl

/-- The memory before the image: zeros, and the `reti` word's place holds zeros too. -/
theorem Memory.read_zeroed (a : Nat) : Memory.read (Memory.writeWord [] Config.intVector 0x0000#16) a = 0x00#8 := by
  rw [Memory.read_writeWord]
  split
  · rfl
  · next h1 =>
    split
    · rfl
    · next h0 => exact (if_neg h0).trans (if_neg h1)

/-- The image from address 0, with zeros after it, under the `reti` word (20_memory.md R68). -/
theorem Memory.read_ofImage (bytes : List Byte) (a : Nat) :
    Memory.read (Memory.ofImage bytes) a =
      if a = 1000 then 0x0C#8 else if a = 1001 then 0xE0#8 else bytes.getD a 0#8 := by
  have hlow : Config.intVector.toNat = 1000 := rfl
  have hhigh : (Config.intVector + 1#16).toNat = 1001 := rfl
  simp only [Memory.ofImage, Memory.read_write, Memory.read_writeBytes, Memory.read_zeroed, hlow, hhigh]
  by_cases h0 : a = 1000
  · rw [if_pos h0, if_neg (by omega), if_pos h0]
  · by_cases h1 : a = 1001
    · rw [if_pos h1, if_neg h0, if_pos h1]
    · rw [if_neg h1, if_neg h0, if_neg h0, if_neg h1]
      by_cases hin : a < bytes.length
      · rw [if_pos (by omega), Nat.sub_zero]
      · rw [if_neg (by omega), List.getD_eq_default _ _ (by omega)]

/-- The image of no bytes is the memory at reset. -/
theorem Memory.ofImage_nil : Memory.ofImage [] = [] :=
  Memory.wf_ext (Memory.ofImage_wf [] (Nat.zero_le _)) (by decide) fun a => Memory.read_ofImage [] a

/-- Settles O52: the bytes are those of `Memory.read_ofImage`, and the length alone decides whether the call is refused. -/
theorem loadProgramResetsAndLoads : Obligations.LoadProgramResetsAndLoads := by
  refine ⟨fun s bytes hlen => ?_, fun s bytes hlen => if_neg (Nat.not_le.mpr hlen), fun s => ?_⟩
  · exact ⟨_, if_pos hlen, rfl, fun a _ => Memory.read_ofImage bytes a⟩
  · have hload : s.loadProgram [] = .next { State.reset with mem := Memory.ofImage [] } := if_pos (Nat.zero_le _)
    rw [hload, Memory.ofImage_nil]
    rfl

/-! ## Reset (10_state.md R38) and the interrupt source (60_exceptions.md R350) -/

theorem State.reset_reg (r : Reg) : State.reset.reg r = 0#16 :=
  Vector.getElem_replicate r.isLt

/-- Settles O53: the fields are those of `State.reset`, whose memory lists nothing, so each byte is its reset byte. -/
theorem resetValues : Obligations.ResetValues :=
  ⟨State.reset_reg, rfl, rfl, rfl, rfl, rfl, rfl, rfl, rfl, rfl, rfl, rfl, rfl, rfl, resetByte_eq⟩

/-- Settles O25: the call writes two fields with constants. -/
theorem raiseInterruptSetsPendingAndVector : Obligations.RaiseInterruptSetsPendingAndVector :=
  fun _ => ⟨rfl, rfl⟩

/-! ## The invariant at reset and after a load -/

/-- A core about to fetch meets the invariant when its memory is in canonical form. -/
theorem State.inv_of_atBoundary {s : State} (hb : s.atBoundary) (hr : s.reason = none) (hm : Memory.wf s.mem) : s.Inv := by
  obtain ⟨hh, hp, hi⟩ := hb
  exact
    { memory := hm
      impulsePos := hi.ge
      impulseLe := hi.le.trans (by decide)
      reasonIff := by rw [hr, hh]; rfl
      inRange := fun p => by rw [hr]; nofun
      control := fun _ => ⟨by simp [State.impulseDefined, hp, hi], fun hof => by rw [hp] at hof; cases hof⟩ }

/-- Settles O23: both states are about to fetch, with memory in canonical form. -/
theorem resetAndLoadMeetTheInvariant : Obligations.ResetAndLoadMeetTheInvariant := by
  refine ⟨State.inv_of_atBoundary ⟨rfl, rfl, rfl⟩ rfl (by decide), fun s t bytes hload => ?_⟩
  unfold State.loadProgram at hload
  split at hload
  · next hlen =>
    cases hload
    exact State.inv_of_atBoundary ⟨rfl, rfl, rfl⟩ rfl (Memory.ofImage_wf bytes hlen)
  · cases hload

end Sys2Proof.Machine
end

section
/-! The ALU (41_alu_flags.md R173, R177, R180): the carry chain over the complement is subtraction, and its flags are those of
wide arithmetic. -/

namespace Sys2Proof.Machine

/-- The complement and the seed make the chain a subtraction, whose carry out says that there was no borrow. -/
theorem addChain_not_true (d v : Word) : addChain d (~~~v) true = (d - v, decide (v.toNat ≤ d.toNat)) := by
  refine Prod.ext ?_ ?_
  · calc (addChain d (~~~v) true).1
        = d + ~~~v + 1#16 := addChain_sum d (~~~v) true
      _ = d - v := by rw [BitVec.add_assoc, ← BitVec.neg_eq_not_add, ← BitVec.sub_eq_add_neg]
  · have hv : (~~~v).toNat = 65535 - v.toNat := BitVec.toNat_not
    have hlt : v.toNat < 65536 := v.isLt
    rw [addChain_carry, hv]
    exact decide_eq_decide.mpr (by simp only [Bool.toNat_true]; omega)

theorem aluSub_rbus (d v : Word) : (aluSub d v).rbus = d - v :=
  congrArg Prod.fst (addChain_not_true d v)

theorem flagC_aluSub (d v : Word) : flagC (aluSub d v).flag = decide (v.toNat ≤ d.toNat) :=
  (flagC_packFlags ..).trans (congrArg Prod.snd (addChain_not_true d v))

/-- Settles O9, by `addChain_not_true`: SUB puts the chain's sum on RBUS and its carry in C. -/
theorem subtractionChainIsWideSubtraction : Obligations.SubtractionChainIsWideSubtraction :=
  fun d v => ⟨addChain_not_true d v, aluSub_rbus d v, flagC_aluSub d v⟩

/-- The signed difference is out of range exactly when the operands differ in sign and the difference has not the sign of
the minuend. -/
theorem signedDifference_outOfRange (d v : Word) :
    decide (d.toInt - v.toInt < -32768 ∨ 32767 < d.toInt - v.toInt) = ((v.msb ^^ d.msb) && ((d - v).msb ^^ d.msb)) :=
  calc decide (d.toInt - v.toInt < -32768 ∨ 32767 < d.toInt - v.toInt)
      = d.ssubOverflow v := by
        rw [BitVec.ssubOverflow, ← Bool.decide_or]
        exact decide_eq_decide.mpr (by omega)
    _ = ((v.msb ^^ d.msb) && ((d - v).msb ^^ d.msb)) := by
        rw [BitVec.ssubOverflow_eq]
        cases d.msb <;> cases v.msb <;> cases (d - v).msb <;> rfl

theorem aluSub_flag (d v : Word) : (aluSub d v).flag = subFlags d v := by
  simp only [aluSub, withZS, subFlags, addChain_not_true, signedDifference_outOfRange]

theorem aluSub_eq (d v : Word) : aluSub d v = { rbus := d - v, flag := subFlags d v } :=
  congrArg₂ AluResult.mk (aluSub_rbus d v) (aluSub_flag d v)

/-- Settles O10: C, Z and S are read off the wide result, and the formulas of V are those of signed overflow. -/
theorem aluFlagsAreWideArithmetic : Obligations.AluFlagsAreWideArithmetic :=
  fun d v => ⟨aluAdd_flag d v, aluSub_flag d v⟩

end Sys2Proof.Machine
end

section
/-! The tables of lines (40_phase_control.md R142 to R154): every line moves data and leaves the controller alone, but the
last one of its table, which decides what comes next, and the lines outside the table, which are out of range. -/

namespace Sys2Proof.Machine

/-! ## Lines that only move data -/

/-- The registers and the memory of `s`, with IR, IVR and the controller of `c`. -/
def State.withControl (s c : State) : State :=
  { s with
    ir := c.ir, ivr := c.ivr, phase := c.phase, impulse := c.impulse, pending := c.pending
    halted := c.halted, reason := c.reason }

/-- The line neither reads nor writes IR, IVR and the controller. -/
def Datapath (f : State → State) : Prop := ∀ s c, f (s.withControl c) = (f s).withControl c

namespace Datapath

variable {f : State → State} (h : Datapath f) (s : State)
include h

theorem eq_withControl : f s = (f s).withControl s := h s s

theorem ir : (f s).ir = s.ir := (congrArg State.ir (h.eq_withControl s)).trans rfl

theorem ivr : (f s).ivr = s.ivr := (congrArg State.ivr (h.eq_withControl s)).trans rfl

theorem phase : (f s).phase = s.phase := (congrArg State.phase (h.eq_withControl s)).trans rfl

theorem impulse : (f s).impulse = s.impulse := (congrArg State.impulse (h.eq_withControl s)).trans rfl

theorem pending : (f s).pending = s.pending := (congrArg State.pending (h.eq_withControl s)).trans rfl

theorem halted : (f s).halted = s.halted := (congrArg State.halted (h.eq_withControl s)).trans rfl

theorem reason : (f s).reason = s.reason := (congrArg State.reason (h.eq_withControl s)).trans rfl

theorem raiseInterrupt : f s.raiseInterrupt = (f s).raiseInterrupt :=
  calc f s.raiseInterrupt
      = (f s).withControl s.raiseInterrupt := h s s.raiseInterrupt
    _ = ((f s).withControl s).raiseInterrupt := rfl
    _ = (f s).raiseInterrupt := by rw [← h.eq_withControl]

end Datapath

/-! ## Tables -/

/-- The lines `first` to `last`: all but the last one only move data, the last one is of the kind `Last`, and every other
number is out of range (40_phase_control.md R135). -/
structure LineTable (line : Nat → State → State) (first last : Nat) (Last : (State → State) → Prop) : Prop where
  body : ∀ n, first ≤ n → n < last → Datapath (line n)
  final : Last (line last)
  outside : ∀ n, n < first ∨ last < n → ∀ s, line n s = s.outOfRange

theorem LineTable.mono {line : Nat → State → State} {first last : Nat} {P Q : (State → State) → Prop}
    (h : LineTable line first last P) (hPQ : ∀ f, P f → Q f) : LineTable line first last Q :=
  ⟨h.body, hPQ _ h.final, h.outside⟩

/-- What line `n` of a table can be. -/
theorem LineTable.line_cases {line : Nat → State → State} {first last : Nat} {P : (State → State) → Prop}
    (h : LineTable line first last P) (n : Nat) :
    Datapath (line n) ∨ (n = last ∧ P (line n)) ∨ ∀ s, line n s = s.outOfRange := by
  by_cases hn : n = last
  · subst hn
    exact .inr (.inl ⟨rfl, h.final⟩)
  · by_cases hb : first ≤ n ∧ n < last
    · exact .inl (h.body n hb.1 hb.2)
    · exact .inr (.inr (h.outside n (by omega)))

/-- The line moves data and sets the counter to 6: the source is resolved (40_phase_control.md R143 to R146). -/
def ResolvesSource (f : State → State) : Prop := ∃ δ, Datapath δ ∧ ∀ s, f s = (δ s).setImpulse 6

/-- The line moves data and goes to Execute: the destination is resolved (40_phase_control.md R147 to R150). -/
def ResolvesDest (f : State → State) : Prop := ∃ δ, Datapath δ ∧ ∀ s, f s = (δ s).gotoPhase .execute

/-- The line moves data and ends the instruction (40_phase_control.md R155). -/
def Ends (f : State → State) : Prop := ∃ δ, Datapath δ ∧ ∀ s, f s = (δ s).endInstruction

theorem sourceStep_table (mas : Mode) (rs : Reg) :
    LineTable (sourceStep mas rs) 1 (sourceLines mas) ResolvesSource := by
  cases mas with
  | modeA | modeC =>
    refine ⟨fun n h1 h2 => ?_, ⟨fun s => s.setT s.mdr, fun _ _ => rfl, fun _ => rfl⟩, fun n hn s => ?_⟩
    · have h2 : n < 3 := h2
      interval_cases n using h1, h2 <;> exact fun _ _ => rfl
    · simp only [sourceLines] at hn
      simp only [sourceStep]
      split
      case h_4 => rfl
      all_goals omega
  | modeB =>
    refine ⟨fun n h1 h2 => absurd h2 (Nat.not_lt.mpr h1), ⟨fun s => s.setT (s.reg rs), fun _ _ => rfl, fun _ => rfl⟩,
      fun n hn s => ?_⟩
    simp only [sourceLines] at hn
    simp only [sourceStep]
    split
    case h_2 => rfl
    all_goals omega
  | modeD =>
    refine ⟨fun n h1 h2 => ?_, ⟨fun s => s.setT s.mdr, fun _ _ => rfl, fun _ => rfl⟩, fun n hn s => ?_⟩
    · have h2 : n < 5 := h2
      interval_cases n using h1, h2 <;> exact fun _ _ => rfl
    · simp only [sourceLines] at hn
      simp only [sourceStep]
      split
      case h_6 => rfl
      all_goals omega

theorem destStep_table (mad : Mode) (rd : Reg) :
    LineTable (destStep mad rd) 6 (5 + destLines mad) ResolvesDest := by
  cases mad with
  | modeA =>
    refine ⟨fun n h1 h2 => ?_, ⟨fun s => (s.setMdr (s.memRead s.adr)).setPc (s.pc + 2#16), fun _ _ => rfl, fun _ => rfl⟩,
      fun n hn s => ?_⟩
    · obtain rfl : n = 6 := Nat.le_antisymm (Nat.lt_succ_iff.mp h2) h1
      exact fun _ _ => rfl
    · simp only [destLines] at hn
      simp only [destStep]
      split
      case h_3 => rfl
      all_goals omega
  | modeB =>
    refine ⟨fun n h1 h2 => absurd h2 (Nat.not_lt.mpr h1), ⟨fun s => s, fun _ _ => rfl, fun _ => rfl⟩, fun n hn s => ?_⟩
    simp only [destLines] at hn
    simp only [destStep]
    split
    case h_2 => rfl
    all_goals omega
  | modeC =>
    refine ⟨fun n h1 h2 => ?_, ⟨fun s => s.setMdr (s.memRead s.adr), fun _ _ => rfl, fun _ => rfl⟩, fun n hn s => ?_⟩
    · obtain rfl : n = 6 := Nat.le_antisymm (Nat.lt_succ_iff.mp h2) h1
      exact fun _ _ => rfl
    · simp only [destLines] at hn
      simp only [destStep]
      split
      case h_3 => rfl
      all_goals omega
  | modeD =>
    refine ⟨fun n h1 h2 => ?_, ⟨fun s => s.setMdr (s.memRead s.adr), fun _ _ => rfl, fun _ => rfl⟩, fun n hn s => ?_⟩
    · have h2 : n < 9 := h2
      interval_cases n using h1, h2 <;> exact fun _ _ => rfl
    · simp only [destLines] at hn
      simp only [destStep]
      split
      case h_5 => rfl
      all_goals omega

/-! ## The tables of the handlers (42 R208, 43 R246, 44 R270, 45 R309) -/

/-- A table of one line. -/
theorem LineTable.single {line : Nat → State → State} {P : (State → State) → Prop} (hP : P (line 1))
    (hout : ∀ n, n ≠ 1 → ∀ s, line n s = s.outOfRange) : LineTable line 1 1 P :=
  ⟨fun _ h1 h2 => absurd h2 (Nat.not_lt.mpr h1), hP, fun n hn => hout n (by omega)⟩

theorem resultStep_outside (mad : Mode) (rd : Reg) (op : Word → Word → BitVec 4 → AluResult) (n : Nat)
    (hn : n < 1 ∨ resultLines mad < n) (s : State) : resultStep mad rd op n s = s.outOfRange := by
  unfold resultLines at hn
  unfold resultStep
  split
  · split at hn <;> omega
  · split at hn
    · next hm => exact if_pos hm
    · omega
  · rfl

theorem resultStep_table (mad : Mode) (rd : Reg) (op : Word → Word → BitVec 4 → AluResult) :
    LineTable (resultStep mad rd op) 1 (resultLines mad) Ends := by
  have hone : mad ≠ .modeB → Datapath (resultStep mad rd op 1) := by
    intro hm
    cases mad with
    | modeB => exact absurd rfl hm
    | modeA | modeC | modeD => exact fun _ _ => rfl
  refine ⟨fun n h1 h2 => ?_, ?_, resultStep_outside mad rd op⟩
  · by_cases hm : mad = .modeB
    · rw [resultLines, if_pos hm] at h2
      omega
    · rw [resultLines, if_neg hm] at h2
      obtain rfl : n = 1 := by omega
      exact hone hm
  · by_cases hm : mad = .modeB
    · subst hm
      exact ⟨fun s => (s.setFlag (op (s.destValue .modeB rd) s.t s.flag).flag).setReg rd
        (op (s.destValue .modeB rd) s.t s.flag).rbus, fun _ _ => rfl, fun _ => rfl⟩
    · rw [resultLines, if_neg hm]
      exact ⟨fun s => s.memWrite s.adr s.mdr, fun _ _ => rfl, fun _ => if_neg hm⟩

theorem cmpStep_table (mad : Mode) (rd : Reg) : LineTable (cmpStep mad rd) 1 1 Ends := by
  refine .single ⟨fun s => s.setFlag (aluSub (s.destValue mad rd) s.t).flag, fun _ _ => rfl, fun _ => rfl⟩
    fun n hn s => ?_
  unfold cmpStep
  split
  · exact absurd rfl hn
  · rfl

theorem jmpStep_table (mad : Mode) (rd : Reg) : LineTable (jmpStep mad rd) 1 1 Ends := by
  refine .single ⟨fun s => s.setPc (s.destValue mad rd), fun _ _ => rfl, fun _ => rfl⟩ fun n hn s => ?_
  unfold jmpStep
  split
  · exact absurd rfl hn
  · rfl

theorem callStep_table (mad : Mode) (rd : Reg) : LineTable (callStep mad rd) 1 4 Ends := by
  refine ⟨fun n h1 h2 => ?_, ⟨fun s => s.setPc s.t, fun _ _ => rfl, fun _ => rfl⟩, fun n hn s => ?_⟩
  · interval_cases n using h1, h2 <;> exact fun _ _ => rfl
  · unfold callStep
    split
    case h_5 => rfl
    all_goals omega

theorem pushStep_table (mad : Mode) (rd : Reg) : LineTable (pushStep mad rd) 1 3 Ends := by
  refine ⟨fun n h1 h2 => ?_, ⟨fun s => s.memWrite s.adr s.mdr, fun _ _ => rfl, fun _ => rfl⟩, fun n hn s => ?_⟩
  · interval_cases n using h1, h2 <;> exact fun _ _ => rfl
  · unfold pushStep
    split
    case h_4 => rfl
    all_goals omega

theorem popStep_outside (mad : Mode) (rd : Reg) (n : Nat) (hn : n < 1 ∨ (if mad = .modeB then 4 else 5) < n) (s : State) :
    popStep mad rd n s = s.outOfRange := by
  unfold popStep
  split
  case h_5 =>
    split at hn
    · next hm => exact if_pos hm
    · omega
  case h_6 => rfl
  all_goals split at hn <;> omega

theorem popStep_table (mad : Mode) (rd : Reg) : LineTable (popStep mad rd) 1 (if mad = .modeB then 4 else 5) Ends := by
  by_cases hm : mad = .modeB
  · subst hm
    refine ⟨fun n h1 h2 => ?_, ⟨fun s => s.setReg rd s.mdr, fun _ _ => rfl, fun _ => rfl⟩, popStep_outside .modeB rd⟩
    rw [if_pos rfl] at h2
    interval_cases n using h1, h2 <;> exact fun _ _ => rfl
  · have hfour : ∀ s, popStep mad rd 4 s = s.setAdr s.t := fun s => if_neg hm
    refine ⟨fun n h1 h2 => ?_, ?_, popStep_outside mad rd⟩
    · rw [if_neg hm] at h2
      by_cases h4 : n = 4
      · subst h4
        intro s c
        rw [hfour, hfour]
        rfl
      · have h3 : n < 4 := by omega
        interval_cases n using h1, h3 <;> exact fun _ _ => rfl
    · rw [if_neg hm]
      exact ⟨fun s => s.memWrite s.adr s.mdr, fun _ _ => rfl, fun _ => if_neg hm⟩

theorem branchStep_table (cond : BitVec 4 → Bool) (disp : BitVec 8) : LineTable (branchStep cond disp) 1 1 Ends := by
  refine .single ⟨fun s => s.setPc (if cond s.flag then s.pc + sext16 disp else s.pc), fun _ _ => rfl, fun s => ?_⟩
    fun n hn s => ?_
  · by_cases hc : cond s.flag = true
    · simp only [branchStep, if_pos hc]
    · simp only [branchStep, if_neg hc]
      rfl
  · unfold branchStep
    split
    · exact absurd rfl hn
    · rfl

theorem flagStep_table (f : BitVec 4 → BitVec 4) : LineTable (flagStep f) 1 1 Ends := by
  refine .single ⟨fun s => s.setFlag (f s.flag), fun _ _ => rfl, fun _ => rfl⟩ fun n hn s => ?_
  unfold flagStep
  split
  · exact absurd rfl hn
  · rfl

theorem nopStep_table : LineTable nopStep 1 1 Ends := by
  refine .single ⟨fun s => s, fun _ _ => rfl, fun _ => rfl⟩ fun n hn s => ?_
  unfold nopStep
  split
  · exact absurd rfl hn
  · rfl

theorem pushWordStep_table {value : State → Word} (hv : ∀ s c : State, value (s.withControl c) = value s) :
    LineTable (pushWordStep value) 1 3 Ends := by
  refine ⟨fun n h1 h2 => ?_, ⟨fun s => s.memWrite s.adr s.mdr, fun _ _ => rfl, fun _ => rfl⟩, fun n hn s => ?_⟩
  · interval_cases n using h1, h2
    · exact fun _ _ => rfl
    · exact fun s c => congrArg (State.setMdr ((s.withControl c).setAdr s.sp)) (hv s c)
  · unfold pushWordStep
    split
    case h_4 => rfl
    all_goals omega

theorem popWordStep_table {store : Word → State → State} (hs : ∀ w, Datapath (store w)) :
    LineTable (popWordStep store) 1 3 Ends := by
  refine ⟨fun n h1 h2 => ?_, ⟨fun s => store s.mdr s, fun s c => hs s.mdr s c, fun _ => rfl⟩, fun n hn s => ?_⟩
  · interval_cases n using h1, h2 <;> exact fun _ _ => rfl
  · unfold popWordStep
    split
    case h_4 => rfl
    all_goals omega

/-- The last line of `reti` clears `pending`, so it is not one that moves data and ends the instruction. -/
theorem interruptReturnStep_table : LineTable interruptReturnStep 1 5 (· = interruptReturnStep 5) := by
  refine ⟨fun n h1 h2 => ?_, rfl, fun n hn s => ?_⟩
  · interval_cases n using h1, h2 <;> exact fun _ _ => rfl
  · unfold interruptReturnStep
    split
    case h_6 => rfl
    all_goals omega

theorem haltStep_table : LineTable haltStep 1 1 (· = haltStep 1) := by
  refine .single rfl fun n hn s => ?_
  unfold haltStep
  split
  · exact absurd rfl hn
  · rfl

theorem waitStep_table : LineTable waitStep 1 1 (· = waitStep 1) := by
  refine .single rfl fun n hn s => ?_
  unfold waitStep
  split
  · exact absurd rfl hn
  · rfl

/-- The last Execute line of instruction `i`. -/
inductive Closing (i : Instr) (f : State → State) : Prop
  | ended (h : Ends f)
  | reti (hi : i = .reti) (hf : f = interruptReturnStep 5)
  | halt (hi : i = .halt) (hf : f = haltStep 1)
  | wait (hi : i = .wait) (hf : f = waitStep 1)

theorem LineTable.closing {line : Nat → State → State} {first last : Nat} (i : Instr)
    (h : LineTable line first last Ends) : LineTable line first last (Closing i) :=
  h.mono fun _ => .ended

/-- Every handler has the lines that the table of counts gives it. -/
theorem handler_table (i : Instr) : LineTable (handler i) 1 (executeLines i) (Closing i) := by
  cases i with
  | mov _ _ mad rd | add _ _ mad rd | sub _ _ mad rd | and _ _ mad rd | or _ _ mad rd | xor _ _ mad rd =>
    simp only [handler, movStep, addStep, subStep, andStep, orStep, xorStep]
    exact (resultStep_table mad rd _).closing _
  | clr mad rd | neg mad rd | inc mad rd | dec mad rd =>
    simp only [handler, clrStep, negStep, incStep, decStep]
    exact (resultStep_table mad rd _).closing _
  | asl mad rd | asr mad rd | lsr mad rd | rol mad rd | ror mad rd | rlc mad rd | rrc mad rd =>
    simp only [handler, aslStep, asrStep, lsrStep, rolStep, rorStep, rlcStep, rrcStep]
    exact (resultStep_table mad rd _).closing _
  | cmp _ _ mad rd => exact (cmpStep_table mad rd).closing _
  | jmp mad rd => exact (jmpStep_table mad rd).closing _
  | call mad rd => exact (callStep_table mad rd).closing _
  | push mad rd => exact (pushStep_table mad rd).closing _
  | pop mad rd => exact (popStep_table mad rd).closing _
  | br disp | bne disp | beq disp | bpl disp | bcs disp | bcc disp | bvs disp | bvc disp =>
    simp only [handler, brStep, bneStep, beqStep, bplStep, bcsStep, bccStep, bvsStep, bvcStep]
    exact (branchStep_table _ disp).closing _
  | clc | clv | clz | cls | sec | sev | sez | ses | ccc | scc =>
    simp only [handler, clcStep, clvStep, clzStep, clsStep, secStep, sevStep, sezStep, sesStep, cccStep, sccStep]
    exact (flagStep_table _).closing _
  | nop => exact nopStep_table.closing _
  | ret | poppc => exact (popWordStep_table (store := fun w s => s.setPc w) fun _ _ _ => rfl).closing _
  | popflag => exact (popWordStep_table (store := fun w s => s.setFlag (flagOfWord w)) fun _ _ _ => rfl).closing _
  | pushpc => exact (pushWordStep_table (value := State.pc) fun _ _ => rfl).closing _
  | pushflag => exact (pushWordStep_table (value := fun s => flagWord s.flag) fun _ _ => rfl).closing _
  | reti => exact interruptReturnStep_table.mono fun _ => .reti rfl
  | halt => exact haltStep_table.mono fun _ => .halt rfl
  | wait => exact waitStep_table.mono fun _ => .wait rfl

theorem executeLines_bounds (i : Instr) : 1 ≤ executeLines i ∧ executeLines i ≤ 5 := by
  have hr : ∀ mad, 1 ≤ resultLines mad ∧ resultLines mad ≤ 5 := fun mad => by cases mad <;> decide
  have hp : ∀ mad : Mode, 1 ≤ (if mad = .modeB then 4 else 5) ∧ (if mad = .modeB then 4 else 5) ≤ 5 := fun mad => by
    cases mad <;> decide
  cases i with
  | mov _ _ mad _ | add _ _ mad _ | sub _ _ mad _ | and _ _ mad _ | or _ _ mad _ | xor _ _ mad _ => exact hr mad
  | clr mad _ | neg mad _ | inc mad _ | dec mad _ | asl mad _ | asr mad _ | lsr mad _ | rol mad _ | ror mad _ | rlc mad _
  | rrc mad _ => exact hr mad
  | pop mad _ => exact hp mad
  | _ => exact ⟨Nat.succ_pos _, Nat.le_of_ble_eq_true rfl⟩

end Sys2Proof.Machine
end

section
/-! The controller (40_phase_control.md R130 to R156, 60_exceptions.md R340): what one call of `advance()` does at an impulse
that the tables define, and at one that they do not. -/

namespace Sys2Proof.Machine

/-! ## Halting -/

theorem step_of_halted {s : State} (hh : s.halted = true) : step s = .next s :=
  if_pos hh

/-- Settles O11: `halt` writes two fields, and both `advance()` and a step ask for `halted` first. -/
theorem haltedCoreNeverChanges : Obligations.HaltedCoreNeverChanges :=
  ⟨fun _ _ => rfl, fun _ k hh => ⟨State.advances_of_halted hh k, State.advanceReturns_of_halted hh, step_of_halted hh⟩⟩

/-- Settles O12: what is returned is the negation of `halted` after the call. -/
theorem advanceReturnsFalseIffHalted : Obligations.AdvanceReturnsFalseIffHalted := by
  refine fun s => ⟨?_, State.advanceReturns_of_halted⟩
  rw [State.advanceReturns, Bool.not_eq_false']

/-! ## `advance()` in each phase (40_phase_control.md R130) -/

section Advance

variable {s : State} (hh : s.halted = false)
include hh

theorem State.advance_operandFetch (hp : s.phase = .operandFetch) : s.advance = operandFetchStep s.impulse s.tick := by
  simp [State.advance, hh, hp]

theorem State.advance_interrupt (hp : s.phase = .interrupt) : s.advance = interruptStep s.impulse s.tick := by
  simp [State.advance, hh, hp]

/-- In Execute with an illegal word no line is selected (40_phase_control.md R135). -/
theorem State.advance_execute_illegal {e : DecodeError} (hp : s.phase = .execute) (hd : decodeWord s.ir = .error e) :
    s.advance = s.tick.outOfRange := by
  simp [State.advance, hh, hp, executeStep, hd]

end Advance

/-! ## The tables of Fetch, OperandFetch and Interrupt -/

theorem fetchStep_outside {n : Nat} (hn : n < 1 ∨ 3 < n) (s : State) : fetchStep n s = s.outOfRange := by
  unfold fetchStep
  split
  case h_4 => rfl
  all_goals omega

theorem operandImpulseDefined_iff {w : Word} {n : Nat} :
    operandImpulseDefined w n = true ↔
      n = 1 ∨ (2 ≤ n ∧ n ≤ sourceLines (fieldMas w)) ∨ (6 ≤ n ∧ n ≤ 5 + destLines (fieldMad w)) := by
  simp [operandImpulseDefined, or_assoc]

theorem sourceLines_bounds (m : Mode) : 1 ≤ sourceLines m ∧ sourceLines m ≤ 5 := by
  cases m <;> decide

theorem destLines_bounds (m : Mode) : 1 ≤ destLines m ∧ destLines m ≤ 4 := by
  cases m <;> decide

theorem operandFetchStep_outside {n : Nat} {s : State} (hn : operandImpulseDefined s.ir n = false) :
    operandFetchStep n s = s.outOfRange := by
  have hdef := mt operandImpulseDefined_iff.mpr (Bool.eq_false_iff.mp hn)
  unfold operandFetchStep operandStep
  rw [if_neg (by omega), if_neg (by omega)]
  split
  · exact (sourceStep_table _ _).outside n (by omega) s
  · split
    · exact (destStep_table _ _).outside n (by omega) s
    · rfl

/-- Interrupt entry leaves the controller alone until its last line; it reads IVR (60_exceptions.md R351). -/
theorem interruptStep_eq_withControl {n : Nat} (h1 : 1 ≤ n) (h8 : n < 8) (s : State) :
    interruptStep n s = (interruptStep n s).withControl s := by
  interval_cases n <;> rfl

theorem interruptStep_outside {n : Nat} (hn : n < 1 ∨ 8 < n) (s : State) : interruptStep n s = s.outOfRange := by
  unfold interruptStep
  split
  case h_9 => rfl
  all_goals omega

/-! ## Impulses that the tables define (40_phase_control.md R135) -/

theorem impulseDefined_fetch {s : State} (hp : s.phase = .fetch) :
    s.impulseDefined = true ↔ 1 ≤ s.impulse ∧ s.impulse ≤ 3 := by
  simp [State.impulseDefined, hp]

theorem impulseDefined_operandFetch {s : State} (hp : s.phase = .operandFetch) :
    s.impulseDefined = operandImpulseDefined s.ir s.impulse := by
  simp [State.impulseDefined, hp]

theorem impulseDefined_execute {s : State} {i : Instr} (hp : s.phase = .execute) (hd : decodeWord s.ir = .ok i) :
    s.impulseDefined = true ↔ 1 ≤ s.impulse ∧ s.impulse ≤ executeLines i := by
  simp [State.impulseDefined, hp, hd]

theorem impulseDefined_execute_illegal {s : State} {e : DecodeError} (hp : s.phase = .execute)
    (hd : decodeWord s.ir = .error e) : s.impulseDefined = false := by
  simp [State.impulseDefined, hp, hd]

theorem impulseDefined_interrupt {s : State} (hp : s.phase = .interrupt) :
    s.impulseDefined = true ↔ 1 ≤ s.impulse ∧ s.impulse ≤ 8 := by
  simp [State.impulseDefined, hp]

/-- Every phase has an impulse 1 when IR holds a legal word. -/
theorem impulseDefined_one {s : State} {i : Instr} (hi : s.impulse = 1) (hd : decodeWord s.ir = .ok i) :
    s.impulseDefined = true := by
  cases hp : s.phase with
  | fetch => exact (impulseDefined_fetch hp).mpr (by omega)
  | operandFetch => exact (impulseDefined_operandFetch hp).trans (operandImpulseDefined_iff.mpr (.inl hi))
  | execute =>
    have hlines := executeLines_bounds i
    exact (impulseDefined_execute hp hd).mpr (by omega)
  | interrupt => exact (impulseDefined_interrupt hp).mpr (by omega)

/-- No table has an impulse outside 1 to 9. -/
theorem impulse_bounds_of_impulseDefined {s : State} (h : s.impulseDefined = true) : 1 ≤ s.impulse ∧ s.impulse ≤ 9 := by
  cases hp : s.phase with
  | fetch =>
    have hn := (impulseDefined_fetch hp).mp h
    omega
  | operandFetch =>
    have hn := operandImpulseDefined_iff.mp ((impulseDefined_operandFetch hp).symm.trans h)
    have hsource := sourceLines_bounds (fieldMas s.ir)
    have hdest := destLines_bounds (fieldMad s.ir)
    omega
  | execute =>
    cases hd : decodeWord s.ir with
    | error e =>
      rw [impulseDefined_execute_illegal hp hd] at h
      cases h
    | ok i =>
      have hn := (impulseDefined_execute hp hd).mp h
      have hlines := executeLines_bounds i
      omega
  | interrupt =>
    have hn := (impulseDefined_interrupt hp).mp h
    omega

/-- At an impulse that no table defines, `advance()` halts and does nothing else. -/
theorem State.advance_of_not_impulseDefined {s : State} (hh : s.halted = false) (hu : s.impulseDefined = false) :
    s.advance = s.tick.outOfRange := by
  have hdef := Bool.eq_false_iff.mp hu
  cases hp : s.phase with
  | fetch =>
    have hn := mt (impulseDefined_fetch hp).mpr hdef
    exact (State.advance_fetch hh hp).trans (fetchStep_outside (by omega) s.tick)
  | operandFetch =>
    exact (State.advance_operandFetch hh hp).trans
      (operandFetchStep_outside (s := s.tick) ((impulseDefined_operandFetch hp).symm.trans hu))
  | execute =>
    cases hd : decodeWord s.ir with
    | error e => exact State.advance_execute_illegal hh hp hd
    | ok i =>
      have hn := mt (impulseDefined_execute hp hd).mpr hdef
      exact (State.advance_execute hh hp hd rfl).trans ((handler_table i).outside _ (by omega) s.tick)
  | interrupt =>
    have hn := mt (impulseDefined_interrupt hp).mpr hdef
    exact (State.advance_interrupt hh hp).trans (interruptStep_outside (by omega) s.tick)

/-! ## What a defined impulse does to the controller -/

/-- In OperandFetch, IR holds a legal word. -/
def State.legalOperandWord (s : State) : Prop := s.phase = .operandFetch → ∃ i, decodeWord s.ir = .ok i

/-- From `s` to `t` the core runs on, to an impulse that the tables define. -/
structure State.RunsOn (s t : State) : Prop where
  halted : t.halted = s.halted
  reason : t.reason = s.reason
  control : s.legalOperandWord → t.impulseDefined = true ∧ t.legalOperandWord

/-- From `s` to `t` the core halts, for a reason that is not ImpulseOutOfRange. -/
structure State.HaltsInRange (s t : State) : Prop where
  halted : t.halted = true
  reason : ∃ r, t.reason = some r ∧ ∀ p, r ≠ .impulseOutOfRange p
  impulse : t.impulse = s.impulse + 1

/-- It is enough to look at the controller of `t`, which is that of `c`. -/
theorem State.RunsOn.of_control {s t c : State} (ht : t = t.withControl c) (hh : c.halted = s.halted)
    (hr : c.reason = s.reason) (hc : s.legalOperandWord → c.impulseDefined = true ∧ c.legalOperandWord) : s.RunsOn t := by
  rw [ht]
  exact ⟨hh, hr, hc⟩

namespace Datapath

variable {f : State → State} (h : Datapath f) (s : State)
include h

theorem setImpulse_eq_withControl (n : Nat) : (f s).setImpulse n = ((f s).setImpulse n).withControl (s.setImpulse n) := by
  rw [h.eq_withControl s]
  rfl

theorem gotoPhase_eq_withControl (p : Phase) : (f s).gotoPhase p = ((f s).gotoPhase p).withControl (s.gotoPhase p) := by
  rw [h.eq_withControl s]
  rfl

theorem endInstruction_eq_withControl : (f s).endInstruction = (f s).endInstruction.withControl s.endInstruction := by
  rw [h.eq_withControl s]
  rfl

end Datapath

/-- Fetch (40_phase_control.md R139 to R141): a legal word leads to impulse 1 of a phase that has one. -/
theorem State.advance_fetch_control {s : State} (hh : s.halted = false) (hp : s.phase = .fetch)
    (hdef : s.impulseDefined = true) : s.RunsOn s.advance ∨ s.HaltsInRange s.advance := by
  obtain ⟨hone, htwo⟩ := fetchReadsTheWordAtPc s hh hp
  have stays : ∀ t : State, t.phase = .fetch → 1 ≤ t.impulse → t.impulse ≤ 3 →
      t.impulseDefined = true ∧ t.legalOperandWord := fun t ht h1 h3 =>
    ⟨(impulseDefined_fetch ht).mpr ⟨h1, h3⟩, fun hof => by rw [ht] at hof; cases hof⟩
  obtain ⟨h1, h3⟩ := (impulseDefined_fetch hp).mp hdef
  obtain hi | hi | hi : s.impulse = 1 ∨ s.impulse = 2 ∨ s.impulse = 3 := by omega
  · rw [hone hi]
    exact .inl ⟨rfl, rfl, fun _ => stays _ hp (by decide : 1 ≤ 2) (by decide : 2 ≤ 3)⟩
  · rw [htwo hi]
    exact .inl ⟨rfl, rfl, fun _ => stays _ hp (by decide : 1 ≤ 3) (by decide : 3 ≤ 3)⟩
  · rw [State.advance_fetch hh hp, hi]
    cases hd : decodeWord s.ir with
    | ok i =>
      rw [fetchStep_three hd]
      exact .inl ⟨rfl, rfl, fun _ => ⟨impulseDefined_one rfl hd, fun _ => ⟨i, hd⟩⟩⟩
    | error e =>
      rw [fetchStep_three_illegal hd]
      exact .inr ⟨rfl, ⟨.illegalInstruction, rfl, nofun⟩, rfl⟩

/-- A destination line, run on the counter that follows it (40_phase_control.md R147 to R150). -/
theorem destStep_control {s : State} {n : Nat} (rd : Reg) (hp : s.phase = .operandFetch) (h6 : 6 ≤ n)
    (hn : n ≤ 5 + destLines (fieldMad s.ir)) : s.RunsOn (destStep (fieldMad s.ir) rd n (s.setImpulse (n + 1))) := by
  have htable := destStep_table (fieldMad s.ir) rd
  by_cases hlast : n < 5 + destLines (fieldMad s.ir)
  · refine .of_control ((htable.body n h6 hlast).eq_withControl _) rfl rfl fun hl => ⟨?_, fun _ => hl hp⟩
    exact (impulseDefined_operandFetch (s := s.setImpulse (n + 1)) hp).trans
      (operandImpulseDefined_iff.mpr (.inr (.inr ⟨Nat.le_succ_of_le h6, hlast⟩)))
  · obtain rfl : n = 5 + destLines (fieldMad s.ir) := by omega
    obtain ⟨δ, hδ, hf⟩ := htable.final
    rw [hf]
    refine .of_control (hδ.gotoPhase_eq_withControl _ _) rfl rfl fun hl => ?_
    obtain ⟨i, hd⟩ := hl hp
    exact ⟨impulseDefined_one (i := i) rfl hd, nofun⟩

/-- A source line (40_phase_control.md R143 to R146): the last one leads to the first destination line. -/
theorem sourceStep_control {s : State} (rs : Reg) (hp : s.phase = .operandFetch) (h1 : 1 ≤ s.impulse)
    (hn : s.impulse ≤ sourceLines (fieldMas s.ir)) : s.RunsOn (sourceStep (fieldMas s.ir) rs s.impulse s.tick) := by
  have htable := sourceStep_table (fieldMas s.ir) rs
  by_cases hlast : s.impulse < sourceLines (fieldMas s.ir)
  · refine .of_control ((htable.body _ h1 hlast).eq_withControl _) rfl rfl fun hl => ⟨?_, fun _ => hl hp⟩
    exact (impulseDefined_operandFetch (s := s.tick) hp).trans
      (operandImpulseDefined_iff.mpr (.inr (.inl ⟨Nat.succ_le_succ h1, hlast⟩)))
  · obtain ⟨δ, hδ, hf⟩ := htable.final
    rw [show s.impulse = sourceLines (fieldMas s.ir) by omega, hf]
    refine .of_control (hδ.setImpulse_eq_withControl _ _) rfl rfl fun hl => ⟨?_, fun _ => hl hp⟩
    have hdest := destLines_bounds (fieldMad s.ir)
    exact (impulseDefined_operandFetch (s := s.tick.setImpulse 6) hp).trans
      (operandImpulseDefined_iff.mpr (.inr (.inr ⟨le_refl 6, Nat.add_le_add_left hdest.1 5⟩)))

/-- OperandFetch (40_phase_control.md R142): only the undefined pair of modes halts. -/
theorem State.advance_operandFetch_control {s : State} (hh : s.halted = false) (hp : s.phase = .operandFetch)
    (hdef : s.impulseDefined = true) : s.RunsOn s.advance ∨ s.HaltsInRange s.advance := by
  have hn := operandImpulseDefined_iff.mp ((impulseDefined_operandFetch hp).symm.trans hdef)
  have hsource := sourceLines_bounds (fieldMas s.ir)
  have hdest := destLines_bounds (fieldMad s.ir)
  rw [State.advance_operandFetch hh hp]
  unfold operandFetchStep operandStep
  split
  · exact .inr ⟨rfl, ⟨.unreachableAddressingCombination, rfl, nofun⟩, rfl⟩
  · split
    · exact .inl (destStep_control _ hp (le_refl 6) (by omega))
    · split
      · exact .inl (sourceStep_control _ hp (by omega) (by omega))
      · rw [if_pos (by omega)]
        exact .inl (destStep_control _ hp (by omega) (by omega))

/-- Execute: only `halt` halts (40_phase_control.md R153, R155). -/
theorem State.advance_execute_control {s : State} (hh : s.halted = false) (hp : s.phase = .execute)
    (hdef : s.impulseDefined = true) : s.RunsOn s.advance ∨ s.HaltsInRange s.advance := by
  cases hd : decodeWord s.ir with
  | error e =>
    rw [impulseDefined_execute_illegal hp hd] at hdef
    cases hdef
  | ok i =>
    obtain ⟨h1, hn⟩ := (impulseDefined_execute hp hd).mp hdef
    have hexec : ∀ c : State, c.phase = .execute → c.ir = s.ir → 1 ≤ c.impulse → c.impulse ≤ executeLines i →
        c.impulseDefined = true ∧ c.legalOperandWord := fun c hc hir hc1 hcn =>
      ⟨(impulseDefined_execute hc (hir ▸ hd)).mpr ⟨hc1, hcn⟩, fun hof => by rw [hc] at hof; cases hof⟩
    have hnew : ∀ c : State, c.impulse = 1 → c.ir = s.ir → c.phase ≠ .operandFetch →
        c.impulseDefined = true ∧ c.legalOperandWord := fun c hc hir hof =>
      ⟨impulseDefined_one hc (hir ▸ hd), fun h => absurd h hof⟩
    rw [State.advance_execute hh hp hd rfl]
    by_cases hlast : s.impulse < executeLines i
    · exact .inl (.of_control (((handler_table i).body _ h1 hlast).eq_withControl _) rfl rfl
        fun _ => hexec s.tick hp rfl (Nat.le_add_left 1 _) hlast)
    · have hfinal : Closing i (handler i s.impulse) := by
        rw [show s.impulse = executeLines i by omega]
        exact (handler_table i).final
      cases hfinal with
      | ended hends =>
        obtain ⟨δ, hδ, hf⟩ := hends
        rw [hf]
        refine .inl (.of_control (hδ.endInstruction_eq_withControl _) rfl rfl fun _ => hnew _ rfl rfl ?_)
        rw [State.endInstruction_phase]
        split <;> nofun
      | reti _ hf =>
        rw [hf]
        exact .inl ⟨rfl, rfl, fun _ => hnew _ rfl rfl nofun⟩
      | halt _ hf =>
        rw [hf]
        exact .inr ⟨rfl, ⟨.haltEncountered, rfl, nofun⟩, rfl⟩
      | wait _ hf =>
        rw [hf]
        simp only [waitStep]
        split
        · exact .inl ⟨rfl, rfl, fun _ => hnew _ rfl rfl nofun⟩
        · exact .inl ⟨rfl, rfl, fun _ => hexec _ hp rfl (le_refl 1) (executeLines_bounds i).1⟩

/-- Interrupt entry never halts (60_exceptions.md R351). -/
theorem State.advance_interrupt_control {s : State} (hh : s.halted = false) (hp : s.phase = .interrupt)
    (hdef : s.impulseDefined = true) : s.RunsOn s.advance := by
  obtain ⟨h1, h8⟩ := (impulseDefined_interrupt hp).mp hdef
  rw [State.advance_interrupt hh hp]
  by_cases hlast : s.impulse < 8
  · refine .of_control (interruptStep_eq_withControl h1 hlast _) rfl rfl fun _ => ⟨?_, fun hof => ?_⟩
    · exact (impulseDefined_interrupt (s := s.tick) hp).mpr ⟨Nat.le_add_left 1 _, hlast⟩
    · exact absurd (hp.symm.trans hof) nofun
  · rw [show s.impulse = 8 by omega]
    exact ⟨rfl, rfl, fun _ => ⟨(impulseDefined_fetch rfl).mpr ⟨le_refl 1, by simp [interruptStep]⟩, nofun⟩⟩

/-- At an impulse that the tables define, the core runs on or halts for a reason of its own. -/
theorem State.advance_of_impulseDefined {s : State} (hh : s.halted = false) (hdef : s.impulseDefined = true) :
    s.RunsOn s.advance ∨ s.HaltsInRange s.advance := by
  cases hp : s.phase with
  | fetch => exact State.advance_fetch_control hh hp hdef
  | operandFetch => exact State.advance_operandFetch_control hh hp hdef
  | execute => exact State.advance_execute_control hh hp hdef
  | interrupt => exact .inl (State.advance_interrupt_control hh hp hdef)

/-- Settles O16: outside the tables the line is ImpulseOutOfRange, and no line of a table is. -/
theorem undefinedImpulseHaltsOutOfRange : Obligations.UndefinedImpulseHaltsOutOfRange := by
  refine fun s hh => ⟨State.advance_of_not_impulseDefined hh, fun hdef hr p => ?_⟩
  rcases State.advance_of_impulseDefined hh hdef with hon | hhalt
  · rw [hon.reason, hr]
    nofun
  · obtain ⟨r, hreason, hnot⟩ := hhalt.reason
    rw [hreason]
    exact fun e => hnot p (Option.some.inj e)

/-! ## The invariant -/

theorem State.advance_mem_wf {s : State} (hm : Memory.wf s.mem) : Memory.wf s.advance.mem := by
  rcases s.advance_stores with h | h
  · rw [h]
    exact hm
  · rw [h]
    exact Memory.writeWord_wf _ _ _ hm

/-- A core that runs on keeps the invariant: the impulse it is at is defined, so the counter is in bounds. -/
theorem State.Inv.of_runsOn {s t : State} (h : s.Inv) (hh : s.halted = false) (hm : Memory.wf t.mem) (ht : s.RunsOn t) :
    t.Inv := by
  obtain ⟨hdef, hlegal⟩ := ht.control (h.control hh).2
  obtain ⟨h1, h9⟩ := impulse_bounds_of_impulseDefined hdef
  exact
    { memory := hm
      impulsePos := h1
      impulseLe := by omega
      reasonIff := by rw [ht.reason, ht.halted]; exact h.reasonIff
      inRange := by rw [ht.reason]; exact h.inRange
      control := fun _ => ⟨hdef, hlegal⟩ }

/-- A core that halts at a defined impulse keeps the invariant: the counter is one past that impulse. -/
theorem State.Inv.of_haltsInRange {s t : State} (hdef : s.impulseDefined = true) (hm : Memory.wf t.mem)
    (ht : s.HaltsInRange t) : t.Inv := by
  obtain ⟨h1, h9⟩ := impulse_bounds_of_impulseDefined hdef
  obtain ⟨r, hreason, hnot⟩ := ht.reason
  have himp := ht.impulse
  exact
    { memory := hm
      impulsePos := by omega
      impulseLe := by omega
      reasonIff := by rw [hreason, ht.halted]; rfl
      inRange := fun p e => hnot p (Option.some.inj (hreason.symm.trans e))
      control := fun hrun => absurd (ht.halted.symm.trans hrun) nofun }

theorem State.Inv.advance {s : State} (h : s.Inv) : s.advance.Inv := by
  cases hh : s.halted with
  | true =>
    rw [State.advance_of_halted hh]
    exact h
  | false =>
    have hdef := (h.control hh).1
    rcases State.advance_of_impulseDefined hh hdef with hon | hhalt
    · exact h.of_runsOn hh (State.advance_mem_wf h.memory) hon
    · exact .of_haltsInRange hdef (State.advance_mem_wf h.memory) hhalt

/-- The invariant does not speak of `pending` and IVR. -/
theorem State.Inv.raiseInterrupt {s : State} (h : s.Inv) : s.raiseInterrupt.Inv :=
  ⟨h.memory, h.impulsePos, h.impulseLe, h.reasonIff, h.inRange, h.control⟩

/-- Settles O21: the invariant puts the core at a defined impulse, from which it runs on to another one or halts in range. -/
theorem advanceKeepsTheInvariant : Obligations.AdvanceKeepsTheInvariant :=
  fun _ h => ⟨h.advance, h.raiseInterrupt⟩

theorem State.Inv.advances {s : State} (h : s.Inv) (k : Nat) : (State.advances k s).Inv := by
  induction k generalizing s with
  | zero => exact h
  | succ k ih => exact ih h.advance

end Sys2Proof.Machine
end

section
/-! Steps (70_reset_and_hazards.md R389): a step is the tabled number of `advance()` calls, and so keeps the invariant. -/

namespace Sys2Proof.Machine

/-! ## What kind of instruction a word is -/

/-- The form of an instruction: its word, the phases it runs, and what the table of counts says of OperandFetch. -/
inductive InstrForm (i : Instr) : Prop
  | twoOperand (o : BitVec 3) (mas : Mode) (rs : Reg) (mad : Mode) (rd : Reg)
      (word : encode i = encodeClass1 o mas rs mad rd)
      (meaning : ∀ s, exec i s = .next (runTwoOperand mas rs mad rd (handler i) s))
      (count : operandFetchImpulses i = if combinationDefined mas mad then sourceLines mas + destLines mad else 1)
      (defined : i.wellFormed = combinationDefined mas mad)
  | oneOperand (o : BitVec 7) (mad : Mode) (rd : Reg)
      (word : encode i = encodeClass2 o mad rd)
      (meaning : ∀ s, exec i s = .next (runOneOperand mad rd (handler i) s))
      (count : operandFetchImpulses i = if mad = .modeB then 0 else destLines mad)
      (defined : i.wellFormed = true)
  | noOperand
      (word : phaseAfterFetch (encode i) = .execute)
      (meaning : ∀ s, exec i s = .next (runHandler (handler i) s))
      (count : operandFetchImpulses i = 0)
      (defined : i.wellFormed = true)

theorem phaseAfterFetch_class1 {w : Word} (h : classOf w = some .class1) : phaseAfterFetch w = .operandFetch := by
  simp [phaseAfterFetch, h]

theorem phaseAfterFetch_class2 {w : Word} (h : classOf w = some .class2) :
    phaseAfterFetch w = if fieldMad w = .modeB then .execute else .operandFetch := by
  simp [phaseAfterFetch, h]

theorem phaseAfterFetch_class3 {w : Word} (h : classOf w = some .class3) : phaseAfterFetch w = .execute := by
  simp [phaseAfterFetch, h]

theorem phaseAfterFetch_class4 {w : Word} (h : classOf w = some .class4) : phaseAfterFetch w = .execute := by
  simp [phaseAfterFetch, h]

theorem instrForm (i : Instr) : InstrForm i := by
  cases i with
  | mov mas rs mad rd | add mas rs mad rd | sub mas rs mad rd | cmp mas rs mad rd | and mas rs mad rd | or mas rs mad rd
  | xor mas rs mad rd => exact .twoOperand _ mas rs mad rd rfl (fun _ => rfl) rfl rfl
  | clr mad rd | neg mad rd | inc mad rd | dec mad rd | asl mad rd | asr mad rd | lsr mad rd | rol mad rd | ror mad rd
  | rlc mad rd | rrc mad rd | jmp mad rd | call mad rd | push mad rd | pop mad rd =>
    exact .oneOperand _ mad rd rfl (fun _ => rfl) rfl rfl
  | br disp | bne disp | beq disp | bpl disp | bcs disp | bcc disp | bvs disp | bvc disp =>
    exact .noOperand (phaseAfterFetch_class3 (classOf_encodeClass3 _ disp)) (fun _ => rfl) rfl rfl
  | _ => exact .noOperand (phaseAfterFetch_class4 (classOf_encodeClass4 _)) (fun _ => rfl) rfl rfl

/-! ## Running a table and calling `advance()` -/

theorem State.advances_add (a b : Nat) (s : State) : State.advances (a + b) s = State.advances b (State.advances a s) := by
  induction a generalizing s with
  | zero => rw [Nat.zero_add]; rfl
  | succ a ih => rw [Nat.succ_add]; exact ih s.advance

theorem State.advances_succ (k : Nat) (s : State) : State.advances (k + 1) s = (State.advances k s).advance :=
  State.advances_add k 1 s

/-- The core runs, at impulse `n` of phase `p`, with `w` in IR. -/
structure State.At (s : State) (p : Phase) (w : Word) (n : Nat) : Prop where
  halted : s.halted = false
  phase : s.phase = p
  ir : s.ir = w
  impulse : s.impulse = n

/-- The line leaves IR, IVR and the controller alone. -/
def KeepsControl (f : State → State) : Prop := ∀ s, f s = (f s).withControl s

theorem Datapath.keepsControl {f : State → State} (h : Datapath f) : KeepsControl f := h.eq_withControl

theorem KeepsControl.at_succ {f : State → State} (h : KeepsControl f) {s : State} {p : Phase} {w : Word} {n : Nat}
    (hs : s.At p w n) : (f s.tick).At p w (n + 1) := by
  rw [h s.tick]
  exact ⟨hs.halted, hs.phase, hs.ir, congrArg (· + 1) hs.impulse⟩

/-- The impulse after which a phase does not go on. -/
theorem runPhase_stop {line : Nat → State → State} {k n : Nat} {s u : State} (hn : s.impulse = n) (hu : line n s.tick = u)
    (hstop : ¬ (u.phase = s.phase ∧ u.halted = false ∧ n < u.impulse)) : runPhase line (k + 1) s = u := by
  subst hn hu
  exact if_neg hstop

section Body

variable {line : Nat → State → State} {p : Phase} {w : Word} {first last : Nat}

/-- The lines before the last one of a table: each is one call of `advance()`, and the phase goes on. -/
theorem runPhase_body (hbody : ∀ n, first ≤ n → n < last → KeepsControl (line n))
    (hadv : ∀ (u : State) (n : Nat), u.At p w n → first ≤ n → n ≤ last → u.advance = line n u.tick) (d n : Nat) (s : State)
    (hs : s.At p w n) (hn : first ≤ n) (hd : n + d = last) :
    (State.advances d s).At p w last ∧ ∀ k, runPhase line (d + k) s = runPhase line k (State.advances d s) := by
  induction d generalizing n s with
  | zero =>
    obtain rfl : n = last := hd
    exact ⟨hs, fun k => by rw [Nat.zero_add]; rfl⟩
  | succ d ih =>
    have hkeep := hbody n hn (by omega)
    have hnext := hkeep.at_succ hs
    have hline : s.advance = line n s.tick := hadv s n hs hn (by omega)
    obtain ⟨hat, hrun⟩ := ih (n + 1) s.advance (by rw [hline]; exact hnext) (by omega) (by omega)
    refine ⟨hat, fun k => ?_⟩
    rw [State.advances, ← hrun k, hline, Nat.succ_add]
    exact runPhase_go hs.impulse rfl (hnext.phase.trans hs.phase.symm) hnext.halted
      (hnext.impulse ▸ Nat.lt_succ_self n)

end Body

/-! ## Execute (40_phase_control.md R153) -/

/-- After the last line of a handler the phase does not go on. -/
theorem Closing.stops {i : Instr} {f : State → State} (h : Closing i f) {s : State} {n : Nat} (hp : s.phase = .execute)
    (hn : 1 ≤ n) : ¬ ((f s.tick).phase = s.phase ∧ (f s.tick).halted = false ∧ n < (f s.tick).impulse) := by
  rintro ⟨hphase, hrun, hforward⟩
  rw [hp] at hphase
  cases h with
  | ended hends =>
    obtain ⟨δ, -, hf⟩ := hends
    rw [hf, State.endInstruction_phase] at hphase
    split at hphase <;> cases hphase
  | reti _ hf =>
    rw [hf] at hphase
    cases hphase
  | halt _ hf =>
    rw [hf] at hrun
    cases hrun
  | wait _ hf =>
    rw [hf] at hphase hforward
    simp only [waitStep] at hphase hforward
    split at hphase
    · cases hphase
    · next hpend =>
      rw [if_neg hpend] at hforward
      exact absurd hforward (Nat.not_lt.mpr hn)

/-- A handler is as many calls of `advance()` as it has lines. -/
theorem runHandler_eq_advances {i : Instr} {w : Word} {s : State} (hs : s.At .execute w 1) (hd : decodeWord w = .ok i) :
    runHandler (handler i) s = State.advances (executeLines i) s := by
  obtain ⟨h1, h5⟩ := executeLines_bounds i
  obtain ⟨d, hdl⟩ : ∃ d, executeLines i = d + 1 := ⟨executeLines i - 1, by omega⟩
  obtain ⟨k, hk⟩ : ∃ k, handlerLines = d + (k + 1) := ⟨4 - d, by unfold handlerLines; omega⟩
  have hadv : ∀ (u : State) (n : Nat), u.At .execute w n → 1 ≤ n → n ≤ executeLines i → u.advance = handler i n u.tick :=
    fun u n hu _ _ => State.advance_execute hu.halted hu.phase (hu.ir ▸ hd) hu.impulse
  obtain ⟨hat, hrun⟩ := runPhase_body (fun n hn hl => ((handler_table i).body n hn hl).keepsControl) hadv d 1 s hs
    (le_refl 1) (by omega)
  have hstart : s.gotoPhase .execute = s := by
    obtain ⟨-, hp, -, hi⟩ := hs
    rw [State.gotoPhase, ← hp, ← hi]
  calc runHandler (handler i) s
      = runPhase (handler i) (d + (k + 1)) s := by rw [runHandler, hstart, hk]
    _ = runPhase (handler i) (k + 1) (State.advances d s) := hrun (k + 1)
    _ = (State.advances d s).advance :=
      runPhase_stop hat.impulse (hadv _ _ hat h1 (le_refl _)).symm
        (hadv _ _ hat h1 (le_refl _) ▸ (handler_table i).final.stops hat.phase h1)
    _ = State.advances (executeLines i) s := by rw [hdl, State.advances_succ]

/-! ## OperandFetch (40_phase_control.md R142) -/

/-- In OperandFetch, `advance()` is the line that the counter names, for the fields of the word in IR. -/
theorem State.At.advance_operandFetch {s : State} {w : Word} {n : Nat} (hs : s.At .operandFetch w n) :
    s.advance = operandStep w.msb (fieldMas w) (fieldRs w) (fieldMad w) (fieldRd w) n s.tick := by
  obtain ⟨hh, hp, rfl, rfl⟩ := hs
  exact State.advance_operandFetch hh hp

/-- Destination resolution is as many calls of `advance()` as it has lines, and leads to Execute impulse 1. -/
theorem runPhase_destStep_eq_advances {s : State} {w : Word} (hs : s.At .operandFetch w 6) (k : Nat) :
    runPhase (destStep (fieldMad w) (fieldRd w)) (destLines (fieldMad w) + k) s =
        State.advances (destLines (fieldMad w)) s ∧
      (State.advances (destLines (fieldMad w)) s).At .execute w 1 := by
  obtain ⟨h1, h4⟩ := destLines_bounds (fieldMad w)
  have htable := destStep_table (fieldMad w) (fieldRd w)
  obtain ⟨d, hd⟩ : ∃ d, destLines (fieldMad w) = d + 1 := ⟨destLines (fieldMad w) - 1, by omega⟩
  have hadv : ∀ (u : State) (n : Nat), u.At .operandFetch w n → 6 ≤ n → n ≤ 5 + destLines (fieldMad w) →
      u.advance = destStep (fieldMad w) (fieldRd w) n u.tick :=
    fun u n hu hn _ => hu.advance_operandFetch.trans (operandStep_dest _ _ _ _ _ n hn _)
  obtain ⟨hat, hrun⟩ := runPhase_body (fun n hn hl => (htable.body n hn hl).keepsControl) hadv d 6 s hs (le_refl 6)
    (by omega)
  obtain ⟨δ, hδ, hf⟩ := htable.final
  have hlast := hadv _ _ hat (by omega) (le_refl _)
  have hend : (State.advances d s).advance.At .execute w 1 := by
    rw [hlast, hf, hδ.gotoPhase_eq_withControl]
    exact ⟨hat.halted, rfl, hat.ir, rfl⟩
  rw [hd, State.advances_succ, show d + 1 + k = d + (k + 1) by omega, hrun]
  refine ⟨runPhase_stop hat.impulse hlast.symm fun hgo => ?_, hend⟩
  exact absurd (hend.phase.symm.trans (hgo.1.trans hat.phase)) nofun

/-- Source resolution is as many calls of `advance()` as it has lines, and leads to impulse 6. -/
theorem runPhase_source_eq_advances {s : State} {w : Word} (hs : s.At .operandFetch w 1) (hw : w.msb = false)
    (hdef : combinationDefined (fieldMas w) (fieldMad w) = true) :
    (State.advances (sourceLines (fieldMas w)) s).At .operandFetch w 6 ∧
      ∀ k, runPhase (operandStep false (fieldMas w) (fieldRs w) (fieldMad w) (fieldRd w)) (sourceLines (fieldMas w) + k) s =
        runPhase (operandStep false (fieldMas w) (fieldRs w) (fieldMad w) (fieldRd w)) k
          (State.advances (sourceLines (fieldMas w)) s) := by
  obtain ⟨h1, h5⟩ := sourceLines_bounds (fieldMas w)
  have htable := sourceStep_table (fieldMas w) (fieldRs w)
  obtain ⟨d, hd⟩ : ∃ d, sourceLines (fieldMas w) = d + 1 := ⟨sourceLines (fieldMas w) - 1, by omega⟩
  have hsource : ∀ n, 1 ≤ n → n ≤ 5 → operandStep false (fieldMas w) (fieldRs w) (fieldMad w) (fieldRd w) n =
      sourceStep (fieldMas w) (fieldRs w) n :=
    fun n hn hl => funext (operandStep_source _ _ _ _ n hn hl hdef)
  have hadv : ∀ (u : State) (n : Nat), u.At .operandFetch w n → 1 ≤ n → n ≤ sourceLines (fieldMas w) →
      u.advance = operandStep false (fieldMas w) (fieldRs w) (fieldMad w) (fieldRd w) n u.tick :=
    fun u n hu _ _ => hw ▸ hu.advance_operandFetch
  obtain ⟨hat, hrun⟩ := runPhase_body
    (fun n hn hl => by rw [hsource n hn (by omega)]; exact (htable.body n hn hl).keepsControl) hadv d 1 s hs (le_refl 1)
    (by omega)
  obtain ⟨δ, hδ, hf⟩ := htable.final
  have hlast := hadv _ _ hat h1 (le_refl _)
  have hend : (State.advances d s).advance.At .operandFetch w 6 := by
    rw [hlast, hsource _ h1 h5, hf, hδ.setImpulse_eq_withControl]
    exact ⟨hat.halted, hat.phase, hat.ir, rfl⟩
  rw [hd, State.advances_succ]
  refine ⟨hend, fun k => ?_⟩
  rw [show d + 1 + k = d + (k + 1) by omega, hrun]
  exact runPhase_go hat.impulse hlast.symm (hend.phase.trans hat.phase.symm) hend.halted
    (hend.impulse ▸ Nat.lt_succ_of_le h5)

/-! ## Whole instructions -/

theorem msb_of_class1 {w : Word} (h : classOf w = some .class1) : w.msb = false :=
  BitVec.msb_eq_false_iff_two_mul_lt.mpr (by have := classOf_eq_class1.mp h; omega)

theorem msb_of_class2 {w : Word} (h : classOf w = some .class2) : w.msb = true :=
  BitVec.msb_eq_true_iff_two_mul_ge.mpr (by have := classOf_eq_class2.mp h; omega)

/-- A Class1 instruction is as many calls of `advance()` as its operands and its handler have lines. -/
theorem runTwoOperand_eq_advances {i : Instr} {w : Word} {s : State} (hs : s.At .operandFetch w 1)
    (hc : classOf w = some .class1) (hd : decodeWord w = .ok i)
    (hdef : combinationDefined (fieldMas w) (fieldMad w) = true) :
    runTwoOperand (fieldMas w) (fieldRs w) (fieldMad w) (fieldRd w) (handler i) s =
      State.advances (sourceLines (fieldMas w) + destLines (fieldMad w) + executeLines i) s := by
  obtain ⟨hsource, hrun⟩ := runPhase_source_eq_advances hs (msb_of_class1 hc) hdef
  have h5 := (sourceLines_bounds (fieldMas w)).2
  have h4 := (destLines_bounds (fieldMad w)).2
  obtain ⟨k, hk⟩ : ∃ k, operandFetchLines = sourceLines (fieldMas w) + (destLines (fieldMad w) + k) :=
    ⟨9 - sourceLines (fieldMas w) - destLines (fieldMad w), by unfold operandFetchLines; omega⟩
  obtain ⟨hdest, hexec⟩ := runPhase_destStep_eq_advances hsource k
  have hstart : s.gotoPhase .operandFetch = s := by
    obtain ⟨-, hp, -, hi⟩ := hs
    rw [State.gotoPhase, ← hp, ← hi]
  have hfetch : runPhase (operandStep false (fieldMas w) (fieldRs w) (fieldMad w) (fieldRd w)) operandFetchLines
      (s.gotoPhase .operandFetch) =
        State.advances (destLines (fieldMad w)) (State.advances (sourceLines (fieldMas w)) s) := by
    rw [hstart, hk, hrun, runPhase_congr (fun n hn => operandStep_dest false _ _ _ _ n hn) _ _ hsource.impulse.ge, hdest]
  simp only [runTwoOperand]
  rw [hfetch, if_pos hexec.phase, runHandler_eq_advances hexec hd, State.advances_add, State.advances_add]

/-- The undefined pair of modes is one call. -/
theorem runTwoOperand_undefined_eq_advances {w : Word} {line : Nat → State → State} {s : State}
    (hs : s.At .operandFetch w 1) (hc : classOf w = some .class1)
    (hdef : combinationDefined (fieldMas w) (fieldMad w) = false) :
    runTwoOperand (fieldMas w) (fieldRs w) (fieldMad w) (fieldRd w) line s = State.advances 1 s := by
  have hadv : s.advance = s.tick.halt .unreachableAddressingCombination :=
    hs.advance_operandFetch.trans (if_pos ⟨rfl, msb_of_class1 hc, hdef⟩)
  obtain ⟨-, hp, -, hi⟩ := hs
  rw [runTwoOperand_undefined _ _ _ _ line s hdef, State.advances, State.advances, hadv]
  simp only [State.gotoPhase, State.setImpulse, State.tick, ← hp, hi]

/-- A Class2 instruction: impulse 1 of OperandFetch is impulse 6, and a register operand has none. -/
theorem runOneOperand_eq_advances {i : Instr} {w : Word} {s : State} (hs : s.At (phaseAfterFetch w) w 1)
    (hc : classOf w = some .class2) (hd : decodeWord w = .ok i) :
    runOneOperand (fieldMad w) (fieldRd w) (handler i) s =
      State.advances ((if fieldMad w = .modeB then 0 else destLines (fieldMad w)) + executeLines i) s := by
  rw [phaseAfterFetch_class2 hc] at hs
  unfold runOneOperand
  split
  · next hb =>
    rw [if_pos hb] at hs
    rw [runHandler_eq_advances hs hd, Nat.zero_add]
  · next hb =>
    rw [if_neg hb] at hs
    have hsix : (s.setImpulse 6).At .operandFetch w 6 := ⟨hs.halted, hs.phase, hs.ir, rfl⟩
    obtain ⟨h1, h4⟩ := destLines_bounds (fieldMad w)
    obtain ⟨k, hk⟩ : ∃ k, operandFetchLines = destLines (fieldMad w) + k :=
      ⟨9 - destLines (fieldMad w), by unfold operandFetchLines; omega⟩
    obtain ⟨hdest, hexec⟩ := runPhase_destStep_eq_advances hsix k
    have hstart : (s.gotoPhase .operandFetch).setImpulse 6 = s.setImpulse 6 := by
      rw [State.gotoPhase, ← hs.phase]
      rfl
    have hfirst : s.advance = (s.setImpulse 6).advance := by
      rw [hs.advance_operandFetch, hsix.advance_operandFetch, operandStep_dest _ _ _ _ _ 6 (le_refl 6), operandStep,
        if_neg (by rw [msb_of_class2 hc]; nofun), if_pos ⟨rfl, msb_of_class2 hc⟩]
      rfl
    have hsame : State.advances (destLines (fieldMad w)) s = State.advances (destLines (fieldMad w)) (s.setImpulse 6) := by
      obtain ⟨d, hd⟩ : ∃ d, destLines (fieldMad w) = d + 1 := ⟨destLines (fieldMad w) - 1, by omega⟩
      rw [hd]
      exact congrArg (State.advances d) hfirst
    rw [hstart, hk, hdest, runHandler_eq_advances hexec hd, ← hsame, State.advances_add]

/-- After Fetch, an instruction is as many calls of `advance()` as the table gives it. -/
theorem exec_eq_advances {i : Instr} {s : State} (hs : s.At (phaseAfterFetch (encode i)) (encode i) 1) :
    exec i s = .next (State.advances (operandFetchImpulses i + if i.wellFormed then executeLines i else 0) s) := by
  have hd := decodeWord_encode i
  cases instrForm i with
  | twoOperand o mas rs mad rd word meaning count defined =>
    rw [word] at hs hd
    have hc := classOf_encodeClass1 o mas rs mad rd
    rw [phaseAfterFetch_class1 hc] at hs
    rw [meaning, count, defined]
    cases hdef : combinationDefined mas mad with
    | true =>
      have hrun := runTwoOperand_eq_advances hs hc hd
      rw [fieldMas_encodeClass1, fieldRs_encodeClass1, fieldMad_encodeClass1, fieldRd_encodeClass1] at hrun
      exact congrArg _ (hrun hdef)
    | false =>
      have hrun := runTwoOperand_undefined_eq_advances (line := handler i) hs hc
      rw [fieldMas_encodeClass1, fieldRs_encodeClass1, fieldMad_encodeClass1, fieldRd_encodeClass1] at hrun
      exact congrArg _ (hrun hdef)
  | oneOperand o mad rd word meaning count defined =>
    rw [word] at hs hd
    have hrun := runOneOperand_eq_advances hs (classOf_encodeClass2 o mad rd) hd
    rw [fieldMad_encodeClass2, fieldRd_encodeClass2] at hrun
    rw [meaning, count, if_pos defined, hrun]
  | noOperand word meaning count defined =>
    rw [word] at hs
    rw [meaning, count, if_pos defined, runHandler_eq_advances hs hd, Nat.zero_add]

/-- At a boundary, a step is as many calls of `advance()` as the table gives the instruction at PC. -/
theorem step_eq_instrImpulses {s : State} {i : Instr} (hb : s.atBoundary) (hd : decodeWord (s.memRead s.pc) = .ok i) :
    step s = .next (State.advances (instrImpulses i) s) := by
  have hw := encodeOfDecodedWordIsTheWord _ _ hd
  have hat : (s.fetched.gotoPhase (phaseAfterFetch (s.memRead s.pc))).At (phaseAfterFetch (encode i)) (encode i) 1 :=
    ⟨hb.1, congrArg phaseAfterFetch hw.symm, hw.symm, rfl⟩
  rw [step_of_decodeWord hb hd, exec_eq_advances hat, ← State.advances_fetch hb hd, ← State.advances_add, instrImpulses,
    Nat.add_assoc]

/-! ## Interrupt entry -/

theorem State.At.advance_interrupt {s : State} {w : Word} {n : Nat} (hs : s.At .interrupt w n) :
    s.advance = interruptStep n s.tick := by
  obtain ⟨hh, hp, -, rfl⟩ := hs
  exact State.advance_interrupt hh hp

/-- The whole entry is 8 calls of `advance()`. -/
theorem runPhase_interrupt_eq_advances {s : State} {w : Word} (hs : s.At .interrupt w 1) :
    runPhase interruptStep 8 s = State.advances 8 s := by
  obtain ⟨hat, hrun⟩ := runPhase_body (first := 1) (last := 8)
    (fun n h1 h8 => interruptStep_eq_withControl h1 h8) (fun u n hu _ _ => hu.advance_interrupt) 7 1 s hs (le_refl 1) rfl
  have hfetch : (State.advances 7 s).advance.phase = .fetch := by
    rw [hat.advance_interrupt]
    rfl
  refine (hrun 1).trans ?_
  rw [State.advances_succ 7]
  exact runPhase_stop hat.impulse hat.advance_interrupt.symm fun hgo =>
    absurd (hfetch.symm.trans (hgo.1.trans hat.phase)) nofun

/-- From any impulse of the entry, the work in flight is what is left of it. -/
theorem State.finish_interrupt (d n : Nat) (s : State) (w : Word) (hs : s.At .interrupt w n) (hn : 1 ≤ n) (hd : n + d = 8)
    (k : Nat) : State.finish (d + 1 + k) s = State.advances (d + 1) s := by
  induction d generalizing n s with
  | zero =>
    obtain rfl : n = 8 := hd
    have hadv : s.advance = s.tick.gotoPhase .fetch := hs.advance_interrupt
    have hends : endsWork s s.advance = true := by
      rw [hadv]
      simp [endsWork]
    rw [Nat.zero_add, Nat.add_comm 1 k]
    exact if_pos hends
  | succ d ih =>
    have hnext : s.advance.At .interrupt w (n + 1) := by
      rw [hs.advance_interrupt]
      exact KeepsControl.at_succ (interruptStep_eq_withControl hn (by omega)) hs
    have hgoes : ¬ endsWork s s.advance = true := by
      simp [endsWork, hnext.halted, hnext.impulse]
      omega
    rw [Nat.succ_add]
    exact (if_neg hgoes).trans (ih (n + 1) s.advance hnext (by omega) (by omega))

theorem step_interrupt {s : State} (hh : s.halted = false) (hp : s.phase = .interrupt) (hi : s.impulse = 1) :
    step s = .next (State.advances 8 s) := by
  have hstep : step s = .next (State.finish longestInstruction s) := by
    simp [step, hh, hp]
  rw [hstep]
  exact congrArg _ (State.finish_interrupt 7 1 s s.ir ⟨hh, hp, rfl, hi⟩ (le_refl 1) rfl 9)

/-- Settles O20: a table run to its end is as many calls of `advance()` as it has lines, for each phase in turn. -/
theorem stepIsTheTabledNumberOfAdvances : Obligations.StepIsTheTabledNumberOfAdvances :=
  ⟨fun _ _ => step_eq_instrImpulses, fun _ => step_interrupt⟩

/-! ## Every step -/

theorem State.finish_eq_advances (k : Nat) (s : State) : ∃ j, State.finish k s = State.advances j s := by
  induction k generalizing s with
  | zero => exact ⟨0, rfl⟩
  | succ k ih =>
    unfold State.finish
    split
    · exact ⟨1, rfl⟩
    · obtain ⟨j, hj⟩ := ih s.advance
      exact ⟨j + 1, hj⟩

/-- A step from any state is some number of calls of `advance()`. -/
theorem step_eq_advances (s : State) : ∃ k, step s = .next (State.advances k s) := by
  cases hh : s.halted with
  | true => exact ⟨0, step_of_halted hh⟩
  | false =>
    by_cases hb : s.phase = .fetch ∧ s.impulse = 1
    · have hbound : s.atBoundary := ⟨hh, hb⟩
      cases hd : decodeWord (s.memRead s.pc) with
      | ok i => exact ⟨_, step_eq_instrImpulses hbound hd⟩
      | error e =>
        exact ⟨3, (step_of_illegalWord hbound hd).trans (congrArg _ (State.advances_fetch_illegal hbound hd).symm)⟩
    · obtain ⟨j, hj⟩ := State.finish_eq_advances longestInstruction s
      refine ⟨j, ?_⟩
      rw [step, if_neg (by rw [hh]; nofun), if_neg hb, hj]

/-- Settles O22: a step is calls of `advance()`, each of which keeps the invariant. -/
theorem stepKeepsTheInvariant : Obligations.StepKeepsTheInvariant := by
  intro s h
  obtain ⟨k, hk⟩ := step_eq_advances s
  exact ⟨_, hk, h.advances k⟩

/-- Settles O19: the two bytes are the word at PC. -/
theorem stepRunsTheDecodedInstruction : Obligations.StepRunsTheDecodedInstruction := by
  intro s i hb hdecode
  have hd : decodeWord (s.memRead s.pc) = .ok i := by
    simp only [decode] at hdecode
    split at hdecode
    · next j hj =>
      cases hdecode
      exact hj
    · cases hdecode
  exact step_of_decodeWord hb hd

end Sys2Proof.Machine
end

section
/-! The phase decision of Fetch, and interrupts between impulses (40_phase_control.md section 4, 10_state.md R34): what `pending`
and IVR mean to an impulse, and which impulse writes them. -/

namespace Sys2Proof.Machine

/-! ## Fetch impulse 3 (40_phase_control.md R141) -/

theorem fieldMad_eq_modeB {w : Word} : fieldMad w = .modeB ↔ w.extractLsb' 4 2 = 0b01#2 := by
  have h : ∀ b : BitVec 2, Mode.ofBits b = .modeB ↔ b = 0b01#2 := by decide
  exact h _

theorem classOf_eq_class2_of_top {w : Word} (h : w.extractLsb' 13 3 = 0b100#3) : classOf w = some .class2 := by
  have hlt : w.toNat < 65536 := w.isLt
  have htop : w.toNat / 8192 % 8 = 4 := (toNat_field w 13 3).symm.trans (congrArg BitVec.toNat h)
  exact classOf_eq_class2.mpr (by omega)

theorem classOf_eq_class1_of_msb {w : Word} (h : w.msb = false) : classOf w = some .class1 :=
  classOf_eq_class1.mpr (by have := BitVec.msb_eq_false_iff_two_mul_lt.mp h; omega)

/-- The phase after Fetch, by the bits of the word. -/
theorem phaseAfterFetch_eq_ite (w : Word) :
    phaseAfterFetch w =
      if w.getLsbD 15 = false then .operandFetch
      else if w.extractLsb' 13 3 = 0b100#3 ∧ w.extractLsb' 4 2 ≠ 0b01#2 then .operandFetch
      else .execute := by
  have hbit : w.getLsbD 15 = w.msb := rfl
  rw [hbit]
  cases hm : w.msb with
  | false => rw [phaseAfterFetch_class1 (classOf_eq_class1_of_msb hm), if_pos rfl]
  | true =>
    rw [if_neg Bool.true_eq_false.mp]
    by_cases htop : w.extractLsb' 13 3 = 0b100#3
    · rw [phaseAfterFetch_class2 (classOf_eq_class2_of_top htop)]
      by_cases hb : fieldMad w = .modeB
      · rw [if_pos hb, if_neg fun h => h.2 (fieldMad_eq_modeB.mp hb)]
      · rw [if_neg hb, if_pos ⟨htop, mt fieldMad_eq_modeB.mpr hb⟩]
    · rw [if_neg fun h => htop h.1]
      unfold phaseAfterFetch
      split
      · next hc => exact absurd ((msb_of_class1 hc).symm.trans hm) Bool.false_ne_true
      · next hc =>
        have hr := classOf_eq_class2.mp hc
        exact absurd (field_eq_of_toNat (by omega)) htop
      · rfl

/-- Settles O14: impulse 3 decodes IR, and the phase of a legal word is read off its bits. -/
theorem fetchDecidesTheNextPhase : Obligations.FetchDecidesTheNextPhase := by
  intro s hh hp hi
  have hadv : s.advance = fetchStep 3 s.tick := hi ▸ State.advance_fetch hh hp
  refine ⟨fun ⟨e, he⟩ => ?_, fun ⟨i, hd⟩ => ?_⟩
  · rw [hadv, fetchStep_three_illegal he, State.halt, State.tick, hi]
  · rw [hadv, fetchStep_three hd, phaseAfterFetch_eq_ite]
    rfl

/-! ## A raised interrupt (40_phase_control.md R156) -/

theorem fetchStep_raiseInterrupt (n : Nat) (s : State) : fetchStep n s.raiseInterrupt = (fetchStep n s).raiseInterrupt := by
  unfold fetchStep
  split
  case h_3 =>
    rw [State.raiseInterrupt_ir]
    split <;> rfl
  all_goals rfl

/-- The lines of OperandFetch do not see `pending` and IVR. -/
theorem LineTable.raiseInterrupt {line : Nat → State → State} {first last : Nat} {Last : (State → State) → Prop}
    (h : LineTable line first last Last)
    (hlast : ∀ f, Last f → ∀ s : State, f s.raiseInterrupt = (f s).raiseInterrupt) (n : Nat) (s : State) :
    line n s.raiseInterrupt = (line n s).raiseInterrupt := by
  rcases h.line_cases n with hdata | ⟨-, hfinal⟩ | hout
  · exact hdata.raiseInterrupt s
  · exact hlast _ hfinal s
  · rw [hout, hout]
    rfl

theorem sourceStep_raiseInterrupt (mas : Mode) (rs : Reg) (n : Nat) (s : State) :
    sourceStep mas rs n s.raiseInterrupt = (sourceStep mas rs n s).raiseInterrupt := by
  refine (sourceStep_table mas rs).raiseInterrupt (fun f ⟨δ, hδ, hf⟩ s => ?_) n s
  rw [hf, hf, hδ.raiseInterrupt]
  rfl

theorem destStep_raiseInterrupt (mad : Mode) (rd : Reg) (n : Nat) (s : State) :
    destStep mad rd n s.raiseInterrupt = (destStep mad rd n s).raiseInterrupt := by
  refine (destStep_table mad rd).raiseInterrupt (fun f ⟨δ, hδ, hf⟩ s => ?_) n s
  rw [hf, hf, hδ.raiseInterrupt]
  rfl

theorem operandFetchStep_raiseInterrupt (n : Nat) (s : State) :
    operandFetchStep n s.raiseInterrupt = (operandFetchStep n s).raiseInterrupt := by
  unfold operandFetchStep operandStep
  rw [State.raiseInterrupt_ir]
  split
  · rfl
  · split
    · exact destStep_raiseInterrupt _ _ 6 (s.setImpulse 7)
    · split
      · exact sourceStep_raiseInterrupt _ _ n s
      · split
        · exact destStep_raiseInterrupt _ _ n s
        · rfl

/-- The two states hold the same registers, flags and memory, and have halted alike. -/
def State.SameData (a b : State) : Prop :=
  b.regs = a.regs ∧ b.pc = a.pc ∧ b.sp = a.sp ∧ b.flag = a.flag ∧ b.ir = a.ir ∧ b.mdr = a.mdr ∧ b.adr = a.adr ∧
    b.t = a.t ∧ b.halted = a.halted ∧ b.reason = a.reason ∧ b.mem = a.mem

theorem State.raiseInterrupt_sameData (s : State) : s.SameData s.raiseInterrupt :=
  ⟨rfl, rfl, rfl, rfl, rfl, rfl, rfl, rfl, rfl, rfl, rfl⟩

/-- An Execute line does not see a raised interrupt, unless it is the last one of its handler, which looks at `pending` to
choose the next phase. -/
theorem handler_raiseInterrupt (i : Instr) (n : Nat) (s : State) :
    (handler i n s).SameData (handler i n s.raiseInterrupt) ∧
      (i ≠ .wait → (handler i n s).phase = .execute →
        handler i n s.raiseInterrupt = (handler i n s).raiseInterrupt) := by
  have hcommutes : handler i n s.raiseInterrupt = (handler i n s).raiseInterrupt →
      (handler i n s).SameData (handler i n s.raiseInterrupt) ∧
        (i ≠ .wait → (handler i n s).phase = .execute →
          handler i n s.raiseInterrupt = (handler i n s).raiseInterrupt) := fun h =>
    ⟨h ▸ State.raiseInterrupt_sameData _, fun _ _ => h⟩
  rcases (handler_table i).line_cases n with hdata | ⟨-, hfinal⟩ | hout
  · exact hcommutes (hdata.raiseInterrupt s)
  · cases hfinal with
    | ended hends =>
      obtain ⟨δ, hδ, hf⟩ := hends
      rw [hf, hf, hδ.raiseInterrupt]
      refine ⟨⟨rfl, rfl, rfl, rfl, rfl, rfl, rfl, rfl, rfl, rfl, rfl⟩, fun _ hp => ?_⟩
      rw [State.endInstruction_phase] at hp
      split at hp <;> cases hp
    | reti _ hf =>
      rw [hf]
      exact ⟨⟨rfl, rfl, rfl, rfl, rfl, rfl, rfl, rfl, rfl, rfl, rfl⟩, nofun⟩
    | halt _ hf => exact hcommutes (by rw [hf]; rfl)
    | wait hi hf =>
      rw [hf]
      refine ⟨?_, fun hw => absurd hi hw⟩
      simp only [waitStep, State.raiseInterrupt_pending, if_true]
      split <;> exact ⟨rfl, rfl, rfl, rfl, rfl, rfl, rfl, rfl, rfl, rfl, rfl⟩
  · exact hcommutes (by rw [hout, hout]; rfl)

theorem State.raiseInterrupt_advance {s : State} (hp : s.phase = .fetch ∨ s.phase = .operandFetch) :
    s.raiseInterrupt.advance = s.advance.raiseInterrupt := by
  cases hh : s.halted with
  | true =>
    rw [State.advance_of_halted hh]
    exact State.advance_of_halted (s := s.raiseInterrupt) hh
  | false =>
    rcases hp with hp | hp
    · rw [State.advance_fetch hh hp]
      exact (State.advance_fetch (s := s.raiseInterrupt) hh hp).trans (fetchStep_raiseInterrupt _ s.tick)
    · rw [State.advance_operandFetch hh hp]
      exact (State.advance_operandFetch (s := s.raiseInterrupt) hh hp).trans (operandFetchStep_raiseInterrupt _ s.tick)

theorem State.raiseInterrupt_advance_execute {s : State} (hp : s.phase = .execute) :
    s.advance.SameData s.raiseInterrupt.advance ∧
      (s.ir ≠ encode .wait → s.advance.phase = .execute → s.raiseInterrupt.advance = s.advance.raiseInterrupt) := by
  cases hh : s.halted with
  | true =>
    have hraised : s.raiseInterrupt.advance = s.raiseInterrupt := State.advance_of_halted (s := s.raiseInterrupt) hh
    rw [hraised, State.advance_of_halted hh]
    exact ⟨s.raiseInterrupt_sameData, fun _ _ => rfl⟩
  | false =>
    cases hd : decodeWord s.ir with
    | error e =>
      have hraised : s.raiseInterrupt.advance = s.raiseInterrupt.tick.outOfRange :=
        State.advance_execute_illegal (s := s.raiseInterrupt) hh hp hd
      rw [hraised, State.advance_execute_illegal hh hp hd]
      exact ⟨⟨rfl, rfl, rfl, rfl, rfl, rfl, rfl, rfl, rfl, rfl, rfl⟩, fun _ _ => rfl⟩
    | ok i =>
      have hraised : s.raiseInterrupt.advance = handler i s.impulse s.tick.raiseInterrupt :=
        State.advance_execute (s := s.raiseInterrupt) hh hp hd rfl
      obtain ⟨hsame, hgoes⟩ := handler_raiseInterrupt i s.impulse s.tick
      rw [hraised, State.advance_execute hh hp hd rfl]
      refine ⟨hsame, fun hw => hgoes ?_⟩
      rintro rfl
      exact hw (encodeOfDecodedWordIsTheWord _ _ hd).symm

/-- Settles O24: no line of Fetch, of OperandFetch or of a handler sees `pending` and IVR, but the last one of a handler. -/
theorem raisedInterruptLeavesTheInstructionAlone : Obligations.RaisedInterruptLeavesTheInstructionAlone :=
  ⟨fun _ => State.raiseInterrupt_advance, fun _ => State.raiseInterrupt_advance_execute⟩

/-! ## Who writes `pending` and IVR (10_state.md R34) -/

/-- No Execute line writes IVR, and only the last one of `reti` writes `pending`. -/
theorem handler_pending_ivr (i : Instr) (n : Nat) (s : State) :
    ((i = .reti ∧ n = 5 ∧ (handler i n s).pending = false) ∨ (handler i n s).pending = s.pending) ∧
      (handler i n s).ivr = s.ivr := by
  rcases (handler_table i).line_cases n with hdata | ⟨hn, hfinal⟩ | hout
  · exact ⟨.inr (hdata.pending s), hdata.ivr s⟩
  · cases hfinal with
    | ended hends =>
      obtain ⟨δ, hδ, hf⟩ := hends
      rw [hf]
      exact ⟨.inr (hδ.pending s), hδ.ivr s⟩
    | reti hi hf =>
      subst hi
      rw [hf]
      exact ⟨.inl ⟨rfl, hn, rfl⟩, rfl⟩
    | halt _ hf =>
      rw [hf]
      exact ⟨.inr rfl, rfl⟩
    | wait _ hf =>
      rw [hf]
      simp only [waitStep]
      split <;> exact ⟨.inr rfl, rfl⟩
  · rw [hout]
    exact ⟨.inr rfl, rfl⟩

/-- The core is about to run Execute impulse 5 of `reti`. -/
def State.clearsPending (s : State) : Prop :=
  s.halted = false ∧ s.phase = .execute ∧ s.impulse = 5 ∧ s.ir = 0xE00C#16

theorem State.advance_pending_of_clearsPending {s : State} (h : s.clearsPending) : s.advance.pending = false := by
  obtain ⟨hh, hp, hi, hir⟩ := h
  rw [State.advance_execute (i := .reti) hh hp (hir ▸ rfl) hi]
  rfl

theorem State.advance_pending_ivr (s : State) :
    (¬ s.clearsPending → s.advance.pending = s.pending) ∧ s.advance.ivr = s.ivr := by
  cases hh : s.halted with
  | true =>
    rw [State.advance_of_halted hh]
    exact ⟨fun _ => rfl, rfl⟩
  | false =>
    cases hp : s.phase with
    | fetch =>
      obtain ⟨_, _, _, _, _, _, _, h⟩ := fetchStep_touches s.impulse s.tick
      rw [State.advance_fetch hh hp, h]
      exact ⟨fun _ => rfl, rfl⟩
    | operandFetch =>
      obtain ⟨_, _, _, _, _, _, _, _, h⟩ := operandFetchStep_touches s.impulse s.tick
      rw [State.advance_operandFetch hh hp, h]
      exact ⟨fun _ => rfl, rfl⟩
    | interrupt =>
      obtain ⟨_, _, _, _, _, _, _, _, _, h⟩ := interruptStep_touches s.impulse s.tick
      rw [State.advance_interrupt hh hp, h]
      exact ⟨fun _ => rfl, rfl⟩
    | execute =>
      cases hd : decodeWord s.ir with
      | error e =>
        rw [State.advance_execute_illegal hh hp hd]
        exact ⟨fun _ => rfl, rfl⟩
      | ok i =>
        obtain ⟨hpending, hivr⟩ := handler_pending_ivr i s.impulse s.tick
        rw [State.advance_execute hh hp hd rfl]
        refine ⟨fun hclear => hpending.resolve_left ?_, hivr⟩
        rintro ⟨rfl, hi, -⟩
        exact hclear ⟨hh, hp, hi, (encodeOfDecodedWordIsTheWord _ _ hd).symm⟩

/-- Settles O29: by the phase, and in Execute by the instruction that IR holds. -/
theorem onlyRetiClearsPending : Obligations.OnlyRetiClearsPending := by
  intro s
  obtain ⟨hpending, hivr⟩ := s.advance_pending_ivr
  refine ⟨State.advance_pending_of_clearsPending, hpending, hivr, fun hh => ?_⟩
  rw [State.advance_of_halted hh, hh]

end Sys2Proof.Machine
end

section
/-! Results (42_class1_two_operand.md, 43_class2_one_operand.md): what the one- and two-operand instructions write, in every
mode. -/

namespace Sys2Proof.Machine

/-- An instruction's answer, in another form. -/
theorem exec_eq_next {i : Instr} {s t u : State} (h : exec i s = .next u) (hut : u = t) : exec i s = .next t :=
  hut ▸ h

/-! ## Two operands -/

/-- A Class1 instruction that writes a result leaves `r` of its operands' values, when its operation on the old FLAG is `r`. -/
theorem runTwoOperand_eq_result {mas mad : Mode} (rs rd : Reg) {op : Word → Word → BitVec 4 → AluResult} {s : State}
    {r : Word → Word → Word × BitVec 4} (hh : s.halted = false) (hd : combinationDefined mas mad = true)
    (hr : ∀ d v, op d v s.flag = { rbus := (r d v).1, flag := (r d v).2 }) :
    runTwoOperand mas rs mad rd (resultStep mad rd op) s = s.twoOperandResult mas rs mad rd r := by
  rw [runTwoOperand_result rs rd op hh hd]
  simp only [hr]

/-- Settles O17: the pair is refused at OperandFetch impulse 1, whatever the handler. -/
theorem undefinedModePairHaltsUnchanged : Obligations.UndefinedModePairHaltsUnchanged := by
  intro rs rd s i _ hi
  have hrun : ∀ line, runTwoOperand .modeD rs .modeB rd line s = { s with
      phase := .operandFetch, impulse := 2, halted := true, reason := some .unreachableAddressingCombination } :=
    fun line => runTwoOperand_undefined .modeD rs .modeB rd line s rfl
  simp only [List.mem_cons, List.not_mem_nil, or_false] at hi
  rcases hi with rfl | rfl | rfl | rfl | rfl | rfl | rfl <;> exact exec_eq_next rfl (hrun _)

/-- Settles O35: SUB is wide subtraction, and `cmp` writes its flags alone. -/
theorem subAndCmpResult : Obligations.SubAndCmpResult := by
  refine fun mas rs mad rd s hh hd => ⟨exec_eq_next rfl ?sub, exec_eq_next rfl ?cmp⟩
  case sub => exact runTwoOperand_eq_result rs rd hh hd aluSub_eq
  case cmp =>
    rw [runTwoOperand_eq mas rs mad rd _ s hh hd, runHandler_cmp mad rd (s.afterTwoOperands mas rs mad rd) hh,
      State.afterTwoOperands_destValue, aluSub_flag]
    rfl

/-- Settles O36: each operation writes Z and S of its result, and C and V as FLAG has them. -/
theorem moveAndLogicResults : Obligations.MoveAndLogicResults :=
  fun _ rs _ rd _ hh hd =>
    ⟨exec_eq_next rfl (runTwoOperand_eq_result rs rd hh hd fun _ _ => rfl),
      exec_eq_next rfl (runTwoOperand_eq_result rs rd hh hd fun _ _ => rfl),
      exec_eq_next rfl (runTwoOperand_eq_result rs rd hh hd fun _ _ => rfl),
      exec_eq_next rfl (runTwoOperand_eq_result rs rd hh hd fun _ _ => rfl)⟩

/-! ## One operand: arithmetic -/

/-- A Class2 instruction that writes a result leaves `r` of its operand's value, when its operation on that value and on the
old FLAG is `r`. -/
theorem runOneOperand_eq_result (mad : Mode) (rd : Reg) {op : Word → Word → BitVec 4 → AluResult} {s : State}
    {r : Word → Word × BitVec 4} (hh : s.halted = false)
    (hr : ∀ d, op d s.t s.flag = { rbus := (r d).1, flag := (r d).2 }) :
    runOneOperand mad rd (resultStep mad rd op) s = s.oneOperandResult mad rd r := by
  have ht : (s.afterOperand mad rd).t = s.t := rfl
  have hf : (s.afterOperand mad rd).flag = s.flag := rfl
  rw [runOneOperand_eq mad rd _ s hh, runHandler_result mad rd op (s.afterOperand mad rd) hh, State.afterOperand_destValue,
    ht, hf, hr]
  rfl

/-- Settles O37: ADD and SUB are wide arithmetic, with the operand or a constant on each bus. -/
theorem unaryArithmeticResults : Obligations.UnaryArithmeticResults :=
  fun mad rd _ hh =>
    ⟨exec_eq_next rfl (runOneOperand_eq_result mad rd hh fun _ => rfl),
      exec_eq_next rfl (runOneOperand_eq_result mad rd hh fun d => aluSub_eq 0x0000#16 d),
      exec_eq_next rfl (runOneOperand_eq_result mad rd hh fun d => aluAdd_eq d 0x0001#16),
      exec_eq_next rfl (runOneOperand_eq_result mad rd hh fun d => aluSub_eq d 0x0001#16)⟩

/-! ## One operand: shifts and rotates (41_alu_flags.md R179) -/

/-- The low 15 bits moved up, with `b` below them. -/
theorem getLsbD_shiftIn_low (d : Word) (b : Bool) (i : Nat) :
    (d.extractLsb' 0 15 ++ BitVec.ofBool b : Word).getLsbD i =
      if i = 0 then b else decide (i < 16) && d.getLsbD (i - 1) := by
  rw [BitVec.getLsbD_append]
  cases i with
  | zero => simp
  | succ j =>
    have hj : j + 1 < 16 ↔ j < 15 := by omega
    simp [hj]

/-- The high 15 bits moved down, with `b` above them. -/
theorem getLsbD_shiftIn_high (d : Word) (b : Bool) (i : Nat) :
    (BitVec.ofBool b ++ d.extractLsb' 1 15 : Word).getLsbD i =
      if i < 15 then d.getLsbD (i + 1) else decide (i = 15) && b := by
  rw [BitVec.getLsbD_append]
  by_cases hi : i < 15
  · simp [hi, Nat.add_comm 1 i]
  · obtain ⟨j, rfl⟩ : ∃ j, i = 15 + j := ⟨i - 15, by omega⟩
    cases j with
    | zero => simp
    | succ j => simp

theorem rlc_bits (d : Word) (b : Bool) :
    (d.extractLsb' 0 15 ++ BitVec.ofBool b : Word) = (d <<< 1) ||| (BitVec.ofBool b).setWidth 16 := by
  refine BitVec.eq_of_getLsbD_eq fun i hi => ?_
  rw [getLsbD_shiftIn_low]
  cases i with
  | zero => simp
  | succ j =>
    have hj : j < 16 := by omega
    simp [hi, BitVec.getLsbD_eq_getElem hj]

theorem rrc_bits (d : Word) (b : Bool) :
    (BitVec.ofBool b ++ d.extractLsb' 1 15 : Word) = (d >>> 1) ||| ((BitVec.ofBool b).setWidth 16 <<< 15) := by
  refine BitVec.eq_of_getLsbD_eq fun i hi => ?_
  rw [getLsbD_shiftIn_high]
  by_cases h15 : i < 15
  · simp [h15, Nat.add_comm 1 i]
  · obtain rfl : i = 15 := by omega
    simp

theorem asl_bits (d : Word) : (d.extractLsb' 0 15 ++ 0#1 : Word) = d <<< 1 :=
  (rlc_bits d false).trans (by simp)

theorem lsr_bits (d : Word) : (0#1 ++ d.extractLsb' 1 15 : Word) = d >>> 1 :=
  (rrc_bits d false).trans (by simp)

theorem asr_bits (d : Word) : (BitVec.ofBool d.msb ++ d.extractLsb' 1 15 : Word) = d.sshiftRight 1 := by
  refine BitVec.eq_of_getLsbD_eq fun i hi => ?_
  rw [getLsbD_shiftIn_high, BitVec.getLsbD_sshiftRight]
  by_cases h15 : i < 15
  · simp only [if_pos h15, Nat.not_le.mpr hi, decide_false, Bool.not_false, Bool.true_and, Nat.add_comm 1 i]
    rw [if_pos (by omega)]
  · obtain rfl : i = 15 := by omega
    simp

theorem rol_bits (d : Word) : (d.extractLsb' 0 15 ++ BitVec.ofBool d.msb : Word) = d.rotateLeft 1 := by
  refine BitVec.eq_of_getLsbD_eq fun i hi => ?_
  rw [getLsbD_shiftIn_low, BitVec.getLsbD_rotateLeft]
  cases i with
  | zero => rfl
  | succ j => simp [hi]

theorem ror_bits (d : Word) : (BitVec.ofBool (d.getLsbD 0) ++ d.extractLsb' 1 15 : Word) = d.rotateRight 1 := by
  refine BitVec.eq_of_getLsbD_eq fun i hi => ?_
  rw [getLsbD_shiftIn_high, BitVec.getLsbD_rotateRight]
  by_cases h15 : i < 15
  · simp [h15, Nat.add_comm 1 i]
  · obtain rfl : i = 15 := by omega
    simp

/-- A shift that puts `x` on RBUS and shifts `out` out. -/
theorem aluShift_eq {r x : Word} (hx : r = x) (out : Bool) (f : BitVec 4) :
    aluShift r out f = { rbus := x, flag := shiftFlags x out f } :=
  hx ▸ rfl

/-- Settles O38: the bits that each operation puts side by side are those of the shift or the rotation. -/
theorem shiftAndRotateResults : Obligations.ShiftAndRotateResults := by
  refine fun mad rd s hh => ⟨exec_eq_next rfl ?asl, exec_eq_next rfl ?asr, exec_eq_next rfl ?lsr,
    exec_eq_next rfl ?rol, exec_eq_next rfl ?ror, exec_eq_next rfl ?rlc, exec_eq_next rfl ?rrc⟩
  case asl => exact runOneOperand_eq_result mad rd hh fun d => aluShift_eq (asl_bits d) _ _
  case asr => exact runOneOperand_eq_result mad rd hh fun d => aluShift_eq (asr_bits d) _ _
  case lsr => exact runOneOperand_eq_result mad rd hh fun d => aluShift_eq (lsr_bits d) _ _
  case rol => exact runOneOperand_eq_result mad rd hh fun d => aluShift_eq (rol_bits d) _ _
  case ror => exact runOneOperand_eq_result mad rd hh fun d => aluShift_eq (ror_bits d) _ _
  case rlc => exact runOneOperand_eq_result mad rd hh fun d => aluShift_eq (rlc_bits d _) _ _
  case rrc => exact runOneOperand_eq_result mad rd hh fun d => aluShift_eq (rrc_bits d _) _ _

/-! ## One operand: transfers of control and the stack -/

theorem exec_jmp (mad : Mode) (rd : Reg) {s : State} (hh : s.halted = false) :
    exec (.jmp mad rd) s = .next (State.ended { s.afterOperand mad rd with pc := s.operandValue s.pc mad rd }) := by
  refine exec_eq_next rfl ?_
  rw [runOneOperand_eq mad rd _ s hh, runHandler_jmp mad rd (s.afterOperand mad rd) hh, State.afterOperand_destValue]

theorem exec_call (mad : Mode) (rd : Reg) {s : State} (hh : s.halted = false) :
    exec (.call mad rd) s =
      .next (State.ended { s with
        pc := s.operandValue s.pc mad rd
        t := s.operandValue s.pc mad rd
        sp := s.sp - 2#16
        adr := s.sp - 2#16
        mdr := pcAfterOperand s.pc mad
        mem := Memory.writeWord s.mem (s.sp - 2#16) (pcAfterOperand s.pc mad) }) := by
  refine exec_eq_next rfl ?_
  rw [runOneOperand_eq mad rd _ s hh, runHandler_call mad rd (s.afterOperand mad rd) hh, State.afterOperand_destValue]
  rfl

theorem exec_push (mad : Mode) (rd : Reg) {s : State} (hh : s.halted = false) :
    exec (.push mad rd) s =
      .next (State.ended { s with
        pc := pcAfterOperand s.pc mad
        t := s.operandValue s.pc mad rd
        sp := s.sp - 2#16
        adr := s.sp - 2#16
        mdr := s.operandValue s.pc mad rd
        mem := Memory.writeWord s.mem (s.sp - 2#16) (s.operandValue s.pc mad rd) }) := by
  refine exec_eq_next rfl ?_
  rw [runOneOperand_eq mad rd _ s hh, runHandler_push mad rd (s.afterOperand mad rd) hh, State.afterOperand_destValue]
  rfl

theorem exec_popRegister (rd : Reg) {s : State} (hh : s.halted = false) :
    exec (.pop .modeB rd) s =
      .next (State.ended { s with
        regs := s.regs.set rd.val (s.memRead s.sp)
        t := s.adr, adr := s.sp, mdr := s.memRead s.sp, sp := s.sp + 2#16 }) := by
  refine exec_eq_next rfl ?_
  rw [runOneOperand_eq .modeB rd _ s hh, runHandler_popRegister rd (s.afterOperand .modeB rd) hh]
  rfl

/-- Only ModeB has no effective address (30_encoding.md R98). -/
theorem State.ne_modeB_of_effectiveAddress {s : State} {p x : Word} {m : Mode} {r : Reg}
    (h : s.effectiveAddress p m r = some x) : m ≠ .modeB := by
  rintro rfl
  cases h

/-- A memory operand leaves its address in ADR (40_phase_control.md R147 to R150). -/
theorem State.afterOperand_adr {s : State} {m : Mode} {r : Reg} {x : Word} (h : s.effectiveAddress s.pc m r = some x) :
    (s.afterOperand m r).adr = x := by
  simp only [State.afterOperand, h, Option.getD_some]

theorem exec_popMemory {mad : Mode} {rd : Reg} {s : State} {x : Word} (hh : s.halted = false)
    (hx : s.effectiveAddress s.pc mad rd = some x) :
    exec (.pop mad rd) s =
      .next (State.ended { s with
        pc := pcAfterOperand s.pc mad
        t := x, adr := x, mdr := s.memRead s.sp, sp := s.sp + 2#16
        mem := Memory.writeWord s.mem x (s.memRead s.sp) }) := by
  refine exec_eq_next rfl ?_
  rw [runOneOperand_eq mad rd _ s hh,
    runHandler_popMemory mad rd (s.afterOperand mad rd) hh (State.ne_modeB_of_effectiveAddress hx)]
  simp only [State.afterOperand_adr hx]
  rw [← State.afterOperand_adr hx]
  rfl

/-- Settles O39, by the handler of `jmp` on the resolved operand. -/
theorem jmpResult : Obligations.JmpResult :=
  fun mad rd _ hh => exec_jmp mad rd hh

/-- Settles O40: the push overwrites the ADR and MDR that the operand left. -/
theorem callResult : Obligations.CallResult :=
  fun mad rd _ hh => exec_call mad rd hh

/-- Settles O41: the push overwrites the ADR and MDR that the operand left. -/
theorem pushResult : Obligations.PushResult :=
  fun mad rd _ hh => exec_push mad rd hh

/-- Settles O42: a register has no address, and the address of a memory operand is kept in T. -/
theorem popResult : Obligations.PopResult :=
  ⟨fun rd _ hh => exec_popRegister rd hh, fun _ _ _ _ hh hx => exec_popMemory hh hx⟩

end Sys2Proof.Machine
end

section
/-! Results (44_class3_branches.md, 45_class4_control.md, 60_exceptions.md R355): the branches, the stack instructions without
an operand, `reti` and `wait`. -/

namespace Sys2Proof.Machine

/-! ## Branches (44_class3_branches.md R270) -/

/-- The sign-extended displacement added modulo 2^16 is the signed displacement added to the address. -/
theorem add_sext16 (p : Word) (disp : BitVec 8) : p + sext16 disp = BitVec.ofInt 16 (p.toNat + disp.toInt) := by
  have hp : BitVec.ofInt 16 (p.toNat : Int) = p := by rw [BitVec.ofInt_natCast, BitVec.ofNat_toNat, BitVec.setWidth_eq]
  rw [BitVec.ofInt_add, hp]
  rfl

/-- Settles O43: every branch has the one line, with its own condition on FLAG. -/
theorem branchResults : Obligations.BranchResults := by
  intro disp s hh
  have hrun : ∀ cond : BitVec 4 → Bool, runHandler (branchStep cond disp) s =
      State.ended { s with pc := if cond s.flag then BitVec.ofInt 16 (s.pc.toNat + disp.toInt) else s.pc } := fun cond => by
    rw [runHandler_branch cond disp s hh, add_sext16]
  exact ⟨exec_eq_next rfl (hrun fun _ => true), exec_eq_next rfl (hrun fun f => !flagZ f), exec_eq_next rfl (hrun flagZ),
    exec_eq_next rfl (hrun fun f => !flagS f), exec_eq_next rfl (hrun flagC), exec_eq_next rfl (hrun fun f => !flagC f),
    exec_eq_next rfl (hrun flagV), exec_eq_next rfl (hrun fun f => !flagV f)⟩

/-! ## The stack (45_class4_control.md R302 to R306) -/

theorem exec_ret {s : State} (hh : s.halted = false) :
    exec .ret s =
      .next (State.ended { s with pc := s.memRead s.sp, sp := s.sp + 2#16, adr := s.sp, mdr := s.memRead s.sp }) :=
  exec_eq_next rfl (runHandler_popPc s hh)

theorem exec_poppc {s : State} (hh : s.halted = false) :
    exec .poppc s =
      .next (State.ended { s with pc := s.memRead s.sp, sp := s.sp + 2#16, adr := s.sp, mdr := s.memRead s.sp }) :=
  exec_eq_next rfl (runHandler_popPc s hh)

/-- Settles O46: the two have one table. -/
theorem retAndPoppcResult : Obligations.RetAndPoppcResult :=
  fun _ hh => ⟨exec_ret hh, exec_poppc hh⟩

theorem exec_pushpc {s : State} (hh : s.halted = false) :
    exec .pushpc s =
      .next (State.ended { s with
        sp := s.sp - 2#16, adr := s.sp - 2#16, mdr := s.pc, mem := Memory.writeWord s.mem (s.sp - 2#16) s.pc }) :=
  exec_eq_next rfl (runHandler_pushWord State.pc s hh fun _ _ _ _ => rfl)

theorem exec_pushflag {s : State} (hh : s.halted = false) :
    exec .pushflag s =
      .next (State.ended { s with
        sp := s.sp - 2#16, adr := s.sp - 2#16, mdr := flagWord s.flag
        mem := Memory.writeWord s.mem (s.sp - 2#16) (flagWord s.flag) }) :=
  exec_eq_next rfl (runHandler_pushWord (fun u => flagWord u.flag) s hh fun _ _ _ _ => rfl)

/-- FLAG read as a word is its value (10_state.md R25). -/
theorem flagWord_eq (f : BitVec 4) : flagWord f = BitVec.ofNat 16 f.toNat :=
  (BitVec.ofNat_toNat 16 f).symm

/-- Settles O47: the pushed word is staged in MDR after SP has moved, and does not depend on SP. -/
theorem pushpcAndPushflagResult : Obligations.PushpcAndPushflagResult :=
  fun s hh => ⟨exec_pushpc hh, flagWord_eq s.flag ▸ exec_pushflag hh⟩

theorem exec_popflag {s : State} (hh : s.halted = false) :
    exec .popflag s =
      .next (State.ended { s with
        flag := flagOfWord (s.memRead s.sp), sp := s.sp + 2#16, adr := s.sp, mdr := s.memRead s.sp }) :=
  exec_eq_next rfl (runHandler_popFlag s hh)

/-- A word written to FLAG is cut to 4 bits (10_state.md R25). -/
theorem flagOfWord_eq (w : Word) : flagOfWord w = w.setWidth 4 := rfl

/-- Settles O48: FLAG keeps the low 4 bits of the popped word. -/
theorem popflagResult : Obligations.PopflagResult :=
  fun _ hh => exec_popflag hh

/-! ## `reti` (60_exceptions.md R355) -/

theorem exec_reti {s : State} (hh : s.halted = false) :
    exec .reti s = .next { s with
      pc := s.memRead s.sp
      flag := (s.memRead (s.sp + 2#16)).setWidth 4
      sp := s.sp + 4#16
      adr := s.sp + 2#16
      mdr := s.memRead (s.sp + 2#16)
      pending := false, phase := .fetch, impulse := 1 } := by
  refine exec_eq_next rfl ((runHandler_interruptReturn s hh).trans ?_)
  rw [flagOfWord_eq, BitVec.add_assoc]
  rfl

/-- Settles O27: two pops, and the phase decision with nothing pending. -/
theorem retiResult : Obligations.RetiResult :=
  fun _ hh => exec_reti hh

/-! ## `wait` (45_class4_control.md R308) -/

/-- The core waits with nothing pending: an impulse rewinds its own counter. -/
theorem State.At.advance_wait {s : State} (hs : s.At .execute 0xE00E#16 1) (hpend : s.pending = false) : s.advance = s := by
  obtain ⟨hh, hp, hir, hi⟩ := hs
  rw [State.advance_execute (i := .wait) hh hp (hir ▸ rfl) hi]
  refine (if_neg (by rw [State.tick_pending, hpend]; nofun)).trans ?_
  rw [State.setImpulse, State.tick, ← hi]

/-- With an interrupt pending, the next impulse leaves `wait` for Interrupt. -/
theorem State.At.advance_wait_pending {s : State} (hs : s.At .execute 0xE00E#16 1) (hpend : s.pending = true) :
    s.advance = { s with phase := .interrupt, impulse := 1 } := by
  obtain ⟨hh, hp, hir, hi⟩ := hs
  rw [State.advance_execute (i := .wait) hh hp (hir ▸ rfl) hi]
  exact if_pos hpend

/-- An impulse that changes nothing can be repeated. -/
theorem State.advances_of_fixed {s : State} (h : s.advance = s) (k : Nat) : State.advances k s = s := by
  induction k with
  | zero => rfl
  | succ k ih => rw [State.advances, h, ih]

/-- Settles O50: the idle impulse is a fixed point of `advance()`, and ends the work in flight. -/
theorem waitResult : Obligations.WaitResult := by
  refine ⟨fun s _ => exec_eq_next rfl (runHandler_wait s), fun s hh hp hi hir hpend => ?_⟩
  have hat : s.At .execute 0xE00E#16 1 := ⟨hh, hp, hir, hi⟩
  have hfixed : s.advance = s := hat.advance_wait hpend
  have hraised : s.raiseInterrupt.At .execute 0xE00E#16 1 := ⟨hh, hp, hir, hi⟩
  have hends : endsWork s s.advance = true := by
    rw [hfixed]
    simp [endsWork, hp, hi]
  have hfinish : State.finish longestInstruction s = s := (if_pos hends).trans hfixed
  refine ⟨State.advances_of_fixed hfixed, ?_, ?_, hraised.advance_wait_pending rfl⟩
  · rw [State.advanceReturns, hfixed, hh]
    rfl
  · simp [step, hh, hp, hfinish]

end Sys2Proof.Machine
end

section
/-! Programs of two steps (60_exceptions.md R351 to R355, 45_class4_control.md R302): interrupt entry and its return, and a call
and its return. -/

namespace Sys2Proof.Machine

/-! ## Interrupt entry (60_exceptions.md R351 to R353) -/

/-- The addresses of the four stack bytes. -/
theorem stack_addresses (a : Word) :
    a - 2#16 - 2#16 = a - 4#16 ∧ a - 4#16 + 1#16 = a - 3#16 ∧ a - 4#16 + 2#16 = a - 2#16 ∧ a - 2#16 + 1#16 = a - 1#16 ∧
      a - 4#16 + 4#16 = a ∧ a - 2#16 + 2#16 = a := by
  refine ⟨?_, ?_, ?_, ?_, ?_, ?_⟩ <;> bv_omega

/-- The memory after the entry: FLAG at SP - 2 and PC at SP - 4. -/
def State.enteredMem (s : State) : Memory :=
  Memory.writeWord (Memory.writeWord s.mem (s.sp - 2#16) (flagWord s.flag)) (s.sp - 4#16) s.pc

/-- The state after the entry. -/
def State.entered (s : State) : State :=
  { s with
    mem := s.enteredMem, sp := s.sp - 4#16, adr := s.sp - 4#16, mdr := s.pc, pc := s.ivr, phase := .fetch, impulse := 1 }

theorem step_entered {s : State} (hh : s.halted = false) (hp : s.phase = .interrupt) (hi : s.impulse = 1) :
    step s = .next s.entered := by
  obtain ⟨hsp, -⟩ := stack_addresses s.sp
  have hrun : runPhase interruptStep 8 s = s.entered := by
    rw [runPhase_interrupt s hh hi hp, hsp]
    rfl
  rw [step_interrupt hh hp hi, ← runPhase_interrupt_eq_advances ⟨hh, hp, rfl, hi⟩, hrun]

theorem State.enteredMem_flag (s : State) : Memory.readWord s.enteredMem (s.sp - 2#16) = flagWord s.flag := by
  have hdisjoint := Memory.readWord_writeWord_of_disjoint (Memory.writeWord s.mem (s.sp - 2#16) (flagWord s.flag))
    (s.sp - 4#16) (s.sp - 2#16) s.pc (by bv_omega) (by bv_omega) (by bv_omega)
  exact hdisjoint.trans (Memory.readWord_writeWord _ _ _)

theorem State.enteredMem_pc (s : State) : Memory.readWord s.enteredMem (s.sp - 4#16) = s.pc :=
  Memory.readWord_writeWord _ _ _

theorem State.enteredMem_other (s : State) {a : Nat} (h4 : a ≠ (s.sp - 4#16).toNat) (h3 : a ≠ (s.sp - 3#16).toNat)
    (h2 : a ≠ (s.sp - 2#16).toNat) (h1 : a ≠ (s.sp - 1#16).toNat) :
    Memory.read s.enteredMem a = Memory.read s.mem a := by
  obtain ⟨-, hthree, -, hone, -⟩ := stack_addresses s.sp
  rw [State.enteredMem, Memory.read_writeWord, hthree, if_neg h3, if_neg h4, Memory.read_writeWord, hone, if_neg h1,
    if_neg h2]

/-- Settles O26: the two words are pushed by way of ADR and MDR, and do not overlap. -/
theorem interruptEntrySavesFlagAndPc : Obligations.InterruptEntrySavesFlagAndPc :=
  fun s hh hp hi => ⟨s.entered, step_entered hh hp hi, rfl, s.enteredMem_flag, s.enteredMem_pc,
    fun _ h4 h3 h2 h1 => s.enteredMem_other h4 h3 h2 h1⟩

/-! ## Entry and return (60_exceptions.md R355) -/

/-- FLAG pushed as a word and cut to 4 bits is FLAG (10_state.md R25). -/
theorem setWidth_flagWord (f : BitVec 4) : (flagWord f).setWidth 4 = f := by
  decide +revert

/-- A step at a boundary whose word is `reti`. -/
theorem step_reti {t : State} (hb : t.atBoundary) (hw : t.memRead t.pc = 0xE00C#16) :
    ∃ u, step t = .next u ∧ u.pc = t.memRead t.sp ∧ u.sp = t.sp + 4#16 ∧
      u.flag = (t.memRead (t.sp + 2#16)).setWidth 4 ∧ u.regs = t.regs ∧ u.t = t.t ∧ u.ivr = t.ivr ∧ u.pending = false ∧
      u.halted = false ∧ u.phase = .fetch ∧ u.impulse = 1 ∧ u.mem = t.mem := by
  have hd : decodeWord (t.memRead t.pc) = .ok .reti := by rw [hw]; rfl
  exact ⟨_, (step_of_decodeWord hb hd).trans (exec_reti hb.1),
    rfl, rfl, rfl, rfl, rfl, rfl, rfl, hb.1, rfl, rfl, rfl⟩

/-- Settles O28: `reti` pops the two words that the entry pushed. -/
theorem interruptThenRetiRestoresTheProgram : Obligations.InterruptThenRetiRestoresTheProgram := by
  intro s t hh hp hi hstep hw
  rw [step_entered hh hp hi] at hstep
  cases hstep
  obtain ⟨-, -, htwo, -, hfour, -⟩ := stack_addresses s.sp
  obtain ⟨u, hu, hpc, hsp, hflag, hregs, ht, hivr, hpend, hhalt, hphase, himp, hmem⟩ :=
    step_reti (t := s.entered) ⟨hh, rfl, rfl⟩ hw
  refine ⟨u, hu, hpc.trans s.enteredMem_pc, hsp.trans hfour, ?_, hregs, ht, hivr, hpend, hhalt, hphase, himp, ?_⟩
  · have hword : s.entered.memRead (s.sp - 4#16 + 2#16) = flagWord s.flag := htwo ▸ s.enteredMem_flag
    exact hflag.trans ((congrArg (BitVec.setWidth 4) hword).trans (setWidth_flagWord s.flag))
  · intro a h4 h3 h2 h1
    rw [hmem]
    exact s.enteredMem_other h4 h3 h2 h1

/-! ## Call and return (43_class2_one_operand.md R243, 45_class4_control.md R302) -/

/-- A step at a boundary whose word is `call`, with nothing pending. -/
theorem step_call {mad : Mode} {rd : Reg} {s : State} (hb : s.atBoundary) (hpend : s.pending = false)
    (hd : decodeWord (s.memRead s.pc) = .ok (.call mad rd)) :
    ∃ t, step s = .next t ∧ t.atBoundary ∧ t.pending = false ∧ t.sp = s.sp - 2#16 ∧ t.flag = s.flag ∧ t.regs = s.regs ∧
      t.memRead t.sp = pcAfterOperand (s.pc + 2#16) mad :=
  ⟨_, (step_of_decodeWord hb hd).trans (exec_call mad rd hb.1),
    ⟨hb.1, if_neg (by rw [Bool.not_eq_true]; exact hpend), rfl⟩, hpend, rfl, rfl, rfl, Memory.readWord_writeWord _ _ _⟩

/-- A step at a boundary whose word is `ret`, with nothing pending. -/
theorem step_ret {t : State} (hb : t.atBoundary) (hpend : t.pending = false) (hw : t.memRead t.pc = 0xE00B#16) :
    ∃ u, step t = .next u ∧ u.atBoundary ∧ u.pc = t.memRead t.sp ∧ u.sp = t.sp + 2#16 ∧ u.flag = t.flag ∧
      u.regs = t.regs := by
  have hd : decodeWord (t.memRead t.pc) = .ok .ret := by rw [hw]; rfl
  exact ⟨_, (step_of_decodeWord hb hd).trans (exec_ret hb.1),
    ⟨hb.1, if_neg (by rw [Bool.not_eq_true]; exact hpend), rfl⟩, rfl, rfl, rfl, rfl⟩

/-- Settles O51: `ret` pops the word that `call` pushed. -/
theorem callThenRetReturnsAfterTheCall : Obligations.CallThenRetReturnsAfterTheCall := by
  intro mad rd s t hb hpend hd hstep hw
  obtain ⟨v, hv, hvb, hvpend, hvsp, hvflag, hvregs, hvtop⟩ := step_call hb hpend hd
  rw [hv] at hstep
  cases hstep
  obtain ⟨u, hu, ⟨huh, hup, hui⟩, hupc, husp, huflag, huregs⟩ := step_ret hvb hvpend hw
  obtain ⟨-, -, -, -, -, htwo⟩ := stack_addresses s.sp
  refine ⟨u, hu, ?_, ?_, huflag.trans hvflag, huregs.trans hvregs, hup, hui, huh⟩
  · rw [hupc, hvtop, pcAfterOperand_eq, BitVec.ofNat_add, BitVec.add_assoc]
  · rw [husp, hvsp, htwo]

end Sys2Proof.Machine
end

section
/-! Frames (10_state.md R21 to R26, 41_alu_flags.md section 2): what an instruction of each class leaves alone, and which
instructions write and read FLAG. -/

namespace Sys2Proof.Machine

/-! ## Writing a register, and storing a word -/

theorem State.reg_of_regs_set {s t : State} {r q : Reg} {v : Word} (h : t.regs = s.regs.set r.val v) (hq : q ≠ r) :
    t.reg q = s.reg q := by
  have hset : t.reg q = (s.setReg r v).reg q := by simp only [State.reg, h, State.setReg]
  rw [hset, State.setReg_reg, if_neg hq]

theorem State.reg_of_regs {s t : State} (h : t.regs = s.regs) (q : Reg) : t.reg q = s.reg q := by
  simp only [State.reg, h]

theorem Memory.read_writeWord_other (m : Memory) (x v : Word) {a : Nat} (h0 : a ≠ x.toNat) (h1 : a ≠ (x + 1#16).toNat) :
    Memory.read (Memory.writeWord m x v) a = Memory.read m a := by
  rw [Memory.read_writeWord, if_neg h1, if_neg h0]

/-! ## The ways to keep the frame -/

section Frame

variable {i : Instr} {s t : State}

/-- No register is written and no word stored. -/
theorem frameKept_of_noWrite (hregs : t.regs = s.regs) (hsp : usesSp i = false → t.sp = s.sp)
    (hflag : writesFlag i = false → t.flag = s.flag) (hir : t.ir = s.ir) (hivr : t.ivr = s.ivr)
    (hpend : i ≠ .reti → t.pending = s.pending) (hmem : t.mem = s.mem) : frameKept i s t :=
  ⟨fun q _ => State.reg_of_regs hregs q, hsp, hflag, hir, hivr, hpend, fun _ _ => by rw [hmem],
    fun _ _ _ _ _ => by rw [hmem]⟩

/-- A register is written, and no word stored. -/
theorem frameKept_of_register {r : Reg} {v : Word} (hreg : registerWritten i = some r) (hregs : t.regs = s.regs.set r.val v)
    (hsp : usesSp i = false → t.sp = s.sp) (hflag : writesFlag i = false → t.flag = s.flag) (hir : t.ir = s.ir)
    (hivr : t.ivr = s.ivr) (hpend : i ≠ .reti → t.pending = s.pending) (hmem : t.mem = s.mem) : frameKept i s t :=
  ⟨fun q hq => State.reg_of_regs_set hregs fun e => hq (hreg.trans (congrArg some e.symm)), hsp, hflag, hir, hivr, hpend,
    fun _ _ => by rw [hmem], fun _ _ _ _ _ => by rw [hmem]⟩

/-- A word is stored, and no register written. -/
theorem frameKept_of_store {x v : Word} (hstore : storeAddress s i = some x) (hregs : t.regs = s.regs)
    (hsp : usesSp i = false → t.sp = s.sp) (hflag : writesFlag i = false → t.flag = s.flag) (hir : t.ir = s.ir)
    (hivr : t.ivr = s.ivr) (hpend : i ≠ .reti → t.pending = s.pending) (hmem : t.mem = Memory.writeWord s.mem x v) :
    frameKept i s t := by
  refine ⟨fun q _ => State.reg_of_regs hregs q, hsp, hflag, hir, hivr, hpend, fun hnone => ?_, fun y hy a h0 h1 => ?_⟩
  · exact absurd (hstore.symm.trans hnone) nofun
  · obtain rfl : x = y := Option.some.inj (hstore.symm.trans hy)
    rw [hmem]
    exact Memory.read_writeWord_other _ _ _ h0 h1

/-- A result is written to a destination in any mode (40_phase_control.md R154). -/
theorem resultWritten_frame {u : State} {mad : Mode} {rd : Reg} {v : Word} {f : BitVec 4}
    (hreg : mad = .modeB → registerWritten i = some rd) (hstore : mad ≠ .modeB → storeAddress s i = some u.adr)
    (hflag : writesFlag i = true) (hregs : u.regs = s.regs) (hsp : u.sp = s.sp) (hir : u.ir = s.ir) (hivr : u.ivr = s.ivr)
    (hpend : u.pending = s.pending) (hmem : u.mem = s.mem) : frameKept i s (u.resultWritten mad rd v f) := by
  have hnoflag : writesFlag i ≠ false := fun h => absurd (hflag.symm.trans h) nofun
  by_cases hm : mad = .modeB
  · rw [State.resultWritten, if_pos hm]
    exact frameKept_of_register (v := v) (hreg hm) (congrArg (·.set rd.val v) hregs) (fun _ => hsp)
      (fun h => absurd h hnoflag) hir hivr (fun _ => hpend) hmem
  · rw [State.resultWritten, if_neg hm]
    exact frameKept_of_store (v := v) (hstore hm) hregs (fun _ => hsp) (fun h => absurd h hnoflag) hir hivr
      (fun _ => hpend) (congrArg (Memory.writeWord · u.adr v) hmem)

/-- A memory operand leaves its address in ADR (30_encoding.md R98). -/
theorem State.effectiveAddress_eq_afterOperand_adr (s : State) {m : Mode} (r : Reg) (hm : m ≠ .modeB) :
    s.effectiveAddress s.pc m r = some (s.afterOperand m r).adr := by
  cases m with
  | modeB => exact absurd rfl hm
  | modeA | modeC | modeD => rfl

/-- A Class1 instruction that writes a result. -/
theorem twoOperandResult_frame {mas mad : Mode} {rs rd : Reg} {r : Word → Word → Word × BitVec 4}
    (hreg : mad = .modeB → registerWritten i = some rd)
    (hstore : storeAddress s i = s.effectiveAddress (pcAfterOperand s.pc mas) mad rd) (hflag : writesFlag i = true) :
    frameKept i s (s.twoOperandResult mas rs mad rd r) := by
  refine resultWritten_frame hreg (fun hm => hstore.trans ?_) hflag rfl rfl rfl rfl rfl rfl
  refine Eq.trans ?_ (State.effectiveAddress_eq_afterOperand_adr
    { s.afterOperand mas rs with t := s.operandValue s.pc mas rs } rd hm)
  cases mad <;> rfl

/-- A Class2 instruction that writes a result. -/
theorem oneOperandResult_frame {mad : Mode} {rd : Reg} {r : Word → Word × BitVec 4}
    (hreg : mad = .modeB → registerWritten i = some rd) (hstore : storeAddress s i = s.effectiveAddress s.pc mad rd)
    (hflag : writesFlag i = true) : frameKept i s (s.oneOperandResult mad rd r) :=
  resultWritten_frame hreg (fun hm => hstore.trans (s.effectiveAddress_eq_afterOperand_adr rd hm)) hflag rfl rfl rfl rfl rfl
    rfl

end Frame

/-! ## Class1 (42_class1_two_operand.md) -/

/-- The undefined pair of modes halts with nothing written. -/
theorem runTwoOperand_undefined_frame {i : Instr} {mas mad : Mode} (rs rd : Reg) (line : Nat → State → State) (s : State)
    (hd : combinationDefined mas mad = false) : frameKept i s (runTwoOperand mas rs mad rd line s) := by
  rw [runTwoOperand_undefined mas rs mad rd line s hd]
  exact frameKept_of_noWrite rfl (fun _ => rfl) (fun _ => rfl) rfl rfl (fun _ => rfl) rfl

theorem runTwoOperand_result_frame {i : Instr} {mas mad : Mode} {rs rd : Reg} {s : State}
    (op : Word → Word → BitVec 4 → AluResult) (hh : s.halted = false)
    (hreg : mad = .modeB → registerWritten i = some rd)
    (hstore : storeAddress s i = s.effectiveAddress (pcAfterOperand s.pc mas) mad rd) (hflag : writesFlag i = true) :
    frameKept i s (runTwoOperand mas rs mad rd (resultStep mad rd op) s) := by
  cases hd : combinationDefined mas mad with
  | false => exact runTwoOperand_undefined_frame rs rd _ s hd
  | true =>
    rw [runTwoOperand_result rs rd op hh hd]
    exact twoOperandResult_frame hreg hstore hflag

theorem runTwoOperand_cmp_frame (mas : Mode) (rs : Reg) (mad : Mode) (rd : Reg) {s : State} (hh : s.halted = false) :
    frameKept (.cmp mas rs mad rd) s (runTwoOperand mas rs mad rd (cmpStep mad rd) s) := by
  cases hd : combinationDefined mas mad with
  | false => exact runTwoOperand_undefined_frame rs rd _ s hd
  | true =>
    rw [runTwoOperand_eq mas rs mad rd _ s hh hd, runHandler_cmp mad rd (s.afterTwoOperands mas rs mad rd) hh]
    exact frameKept_of_noWrite rfl (fun _ => rfl) nofun rfl rfl (fun _ => rfl) rfl

theorem exec_class1_frame {i : Instr} {s : State} (hh : s.halted = false) (hc : i.instrClass = .class1) :
    ∃ t, exec i s = .next t ∧ frameKept i s t := by
  cases i with
  | mov mas rs mad rd | add mas rs mad rd | sub mas rs mad rd | and mas rs mad rd | or mas rs mad rd | xor mas rs mad rd =>
    exact ⟨_, rfl, runTwoOperand_result_frame _ hh (by rintro rfl; rfl) rfl rfl⟩
  | cmp mas rs mad rd => exact ⟨_, rfl, runTwoOperand_cmp_frame mas rs mad rd hh⟩
  | _ => exact nomatch hc

theorem State.resultWritten_flag (s : State) (mad : Mode) (rd : Reg) (v : Word) (f : BitVec 4) :
    (s.resultWritten mad rd v f).flag = f := by
  unfold State.resultWritten
  split <;> rfl

@[simp] theorem flagV_packFlags (c z s v : Bool) : flagV (packFlags c z s v) = v := by
  decide +revert

/-- An operation that keeps C and V does so in every pair of modes, the undefined one included. -/
theorem runTwoOperand_keepsCV {mas mad : Mode} (rs rd : Reg) {op : Word → Word → BitVec 4 → AluResult} {s : State}
    (hh : s.halted = false)
    (hop : ∀ d v f, flagC (op d v f).flag = flagC f ∧ flagV (op d v f).flag = flagV f) :
    flagC (runTwoOperand mas rs mad rd (resultStep mad rd op) s).flag = flagC s.flag ∧
      flagV (runTwoOperand mas rs mad rd (resultStep mad rd op) s).flag = flagV s.flag := by
  cases hd : combinationDefined mas mad with
  | false =>
    rw [runTwoOperand_undefined mas rs mad rd _ s hd]
    exact ⟨rfl, rfl⟩
  | true =>
    rw [runTwoOperand_result rs rd op hh hd, State.twoOperandResult, State.resultWritten_flag]
    exact hop _ _ _

/-- PASS, AND, OR and XOR keep C and V (41_alu_flags.md R178). -/
theorem aluKeepCV_flag (r : Word) (f : BitVec 4) :
    flagC (aluKeepCV r f).flag = flagC f ∧ flagV (aluKeepCV r f).flag = flagV f :=
  ⟨flagC_packFlags .., flagV_packFlags ..⟩

theorem exec_logic_keepsCV {i : Instr} {s t : State} {mas mad : Mode} {rs rd : Reg} (hh : s.halted = false)
    (ht : exec i s = .next t)
    (hi : i ∈ [Instr.mov mas rs mad rd, .and mas rs mad rd, .or mas rs mad rd, .xor mas rs mad rd]) :
    flagC t.flag = flagC s.flag ∧ flagV t.flag = flagV s.flag := by
  simp only [List.mem_cons, List.not_mem_nil, or_false] at hi
  rcases hi with rfl | rfl | rfl | rfl <;> cases ht
  · exact runTwoOperand_keepsCV rs rd hh fun _ v f => aluKeepCV_flag v f
  · exact runTwoOperand_keepsCV rs rd hh fun d v f => aluKeepCV_flag (d &&& v) f
  · exact runTwoOperand_keepsCV rs rd hh fun d v f => aluKeepCV_flag (d ||| v) f
  · exact runTwoOperand_keepsCV rs rd hh fun d v f => aluKeepCV_flag (d ^^^ v) f

/-- Settles O31: a defined pair writes its result to one place, the undefined pair writes nothing. -/
theorem class1Frame : Obligations.Class1Frame := by
  intro i s hh hc
  obtain ⟨t, ht, hframe⟩ := exec_class1_frame hh hc
  exact ⟨t, ht, hframe, fun _ _ _ _ hi => exec_logic_keepsCV hh ht hi⟩

/-! ## Class2 (43_class2_one_operand.md) -/

/-- A Class2 instruction that writes a result leaves its operation on the operand's value, T and the old FLAG. -/
theorem runOneOperand_result (mad : Mode) (rd : Reg) (op : Word → Word → BitVec 4 → AluResult) {s : State}
    (hh : s.halted = false) :
    runOneOperand mad rd (resultStep mad rd op) s =
      s.oneOperandResult mad rd fun d => ((op d s.t s.flag).rbus, (op d s.t s.flag).flag) :=
  runOneOperand_eq_result mad rd hh fun _ => rfl

theorem runOneOperand_result_frame {i : Instr} {mad : Mode} {rd : Reg} {s : State}
    (op : Word → Word → BitVec 4 → AluResult) (hh : s.halted = false)
    (hreg : mad = .modeB → registerWritten i = some rd) (hstore : storeAddress s i = s.effectiveAddress s.pc mad rd)
    (hflag : writesFlag i = true) : frameKept i s (runOneOperand mad rd (resultStep mad rd op) s) := by
  rw [runOneOperand_result mad rd op hh]
  exact oneOperandResult_frame hreg hstore hflag

theorem exec_pop_frame (mad : Mode) (rd : Reg) {s : State} (hh : s.halted = false) :
    ∃ t, exec (.pop mad rd) s = .next t ∧ frameKept (.pop mad rd) s t := by
  by_cases hm : mad = .modeB
  · subst hm
    exact ⟨_, exec_popRegister rd hh,
      frameKept_of_register (v := s.memRead s.sp) rfl rfl nofun (fun _ => rfl) rfl rfl (fun _ => rfl) rfl⟩
  · have hx := s.effectiveAddress_eq_afterOperand_adr rd hm
    exact ⟨_, exec_popMemory hh hx,
      frameKept_of_store (v := s.memRead s.sp) hx rfl nofun (fun _ => rfl) rfl rfl (fun _ => rfl) rfl⟩

theorem exec_class2_frame {i : Instr} {s : State} (hh : s.halted = false) (hc : i.instrClass = .class2) :
    ∃ t, exec i s = .next t ∧ frameKept i s t := by
  cases i with
  | clr mad rd | neg mad rd | inc mad rd | dec mad rd | asl mad rd | asr mad rd | lsr mad rd | rol mad rd | ror mad rd
  | rlc mad rd | rrc mad rd => exact ⟨_, rfl, runOneOperand_result_frame _ hh (by rintro rfl; rfl) rfl rfl⟩
  | jmp mad rd =>
    exact ⟨_, exec_jmp mad rd hh, frameKept_of_noWrite rfl (fun _ => rfl) (fun _ => rfl) rfl rfl (fun _ => rfl) rfl⟩
  | call mad rd =>
    exact ⟨_, exec_call mad rd hh, frameKept_of_store rfl rfl nofun (fun _ => rfl) rfl rfl (fun _ => rfl) rfl⟩
  | push mad rd =>
    exact ⟨_, exec_push mad rd hh, frameKept_of_store rfl rfl nofun (fun _ => rfl) rfl rfl (fun _ => rfl) rfl⟩
  | pop mad rd => exact exec_pop_frame mad rd hh
  | _ => exact nomatch hc

theorem runOneOperand_flag (mad : Mode) (rd : Reg) (op : Word → Word → BitVec 4 → AluResult) {s : State}
    (hh : s.halted = false) :
    (runOneOperand mad rd (resultStep mad rd op) s).flag = (op (s.operandValue s.pc mad rd) s.t s.flag).flag := by
  rw [runOneOperand_result mad rd op hh]
  exact State.resultWritten_flag _ mad rd _ _

theorem exec_clr_keepsCV {s t : State} {mad : Mode} {rd : Reg} (hh : s.halted = false)
    (ht : exec (.clr mad rd) s = .next t) : flagC t.flag = flagC s.flag ∧ flagV t.flag = flagV s.flag := by
  cases ht
  have hflag := runOneOperand_flag mad rd (fun _ _ f => aluZero f) hh
  have hkeep := aluKeepCV_flag 0#16 s.flag
  exact ⟨(congrArg flagC hflag).trans hkeep.1, (congrArg flagV hflag).trans hkeep.2⟩

/-- The shifts and rotates keep V (41_alu_flags.md R179). -/
theorem exec_shift_keepsV {i : Instr} {s t : State} {mad : Mode} {rd : Reg} (hh : s.halted = false)
    (ht : exec i s = .next t)
    (hi : i ∈ [Instr.asl mad rd, .asr mad rd, .lsr mad rd, .rol mad rd, .ror mad rd, .rlc mad rd, .rrc mad rd]) :
    flagV t.flag = flagV s.flag := by
  have hshift : ∀ (r : Word) (out : Bool), flagV (aluShift r out s.flag).flag = flagV s.flag :=
    fun _ _ => flagV_packFlags ..
  simp only [List.mem_cons, List.not_mem_nil, or_false] at hi
  rcases hi with rfl | rfl | rfl | rfl | rfl | rfl | rfl <;> cases ht <;>
    exact (congrArg flagV (runOneOperand_flag mad rd _ hh)).trans (hshift _ _)

/-- Settles O32: a result, a push and a pop write one place, and `jmp` none. -/
theorem class2Frame : Obligations.Class2Frame := by
  intro i s hh hc
  obtain ⟨t, ht, hframe⟩ := exec_class2_frame hh hc
  refine ⟨t, ht, hframe, ?_, fun _ _ hi => exec_shift_keepsV hh ht hi⟩
  rintro mad rd rfl
  exact exec_clr_keepsCV hh ht

/-! ## Class3 and Class4 (44_class3_branches.md, 45_class4_control.md) -/

theorem exec_class3_frame {i : Instr} {s : State} (hh : s.halted = false) (hc : i.instrClass = .class3) :
    ∃ t, exec i s = .next t ∧ frameKept i s t ∧ t.t = s.t := by
  cases i with
  | br disp | bne disp | beq disp | bpl disp | bcs disp | bcc disp | bvs disp | bvc disp =>
    exact ⟨_, exec_eq_next rfl (runHandler_branch _ disp s hh),
      frameKept_of_noWrite rfl (fun _ => rfl) (fun _ => rfl) rfl rfl (fun _ => rfl) rfl, rfl⟩
  | _ => exact nomatch hc

theorem exec_class4_frame {i : Instr} {s : State} (hh : s.halted = false) (hc : i.instrClass = .class4) :
    ∃ t, exec i s = .next t ∧ frameKept i s t ∧ t.t = s.t := by
  cases i with
  | clc | clv | clz | cls | sec | sev | sez | ses | ccc | scc =>
    exact ⟨_, exec_eq_next rfl (runHandler_flag _ s hh),
      frameKept_of_noWrite rfl (fun _ => rfl) nofun rfl rfl (fun _ => rfl) rfl, rfl⟩
  | nop =>
    exact ⟨_, exec_nop hh, frameKept_of_noWrite rfl (fun _ => rfl) (fun _ => rfl) rfl rfl (fun _ => rfl) rfl, rfl⟩
  | halt =>
    exact ⟨_, exec_halt s, frameKept_of_noWrite rfl (fun _ => rfl) (fun _ => rfl) rfl rfl (fun _ => rfl) rfl, rfl⟩
  | wait =>
    exact ⟨_, exec_eq_next rfl (runHandler_wait s),
      frameKept_of_noWrite rfl (fun _ => rfl) (fun _ => rfl) rfl rfl (fun _ => rfl) rfl, rfl⟩
  | ret => exact ⟨_, exec_ret hh, frameKept_of_noWrite rfl nofun (fun _ => rfl) rfl rfl (fun _ => rfl) rfl, rfl⟩
  | poppc => exact ⟨_, exec_poppc hh, frameKept_of_noWrite rfl nofun (fun _ => rfl) rfl rfl (fun _ => rfl) rfl, rfl⟩
  | popflag => exact ⟨_, exec_popflag hh, frameKept_of_noWrite rfl nofun nofun rfl rfl (fun _ => rfl) rfl, rfl⟩
  | reti => exact ⟨_, exec_reti hh, frameKept_of_noWrite rfl nofun nofun rfl rfl (fun h => absurd rfl h) rfl, rfl⟩
  | pushpc => exact ⟨_, exec_pushpc hh, frameKept_of_store rfl rfl nofun (fun _ => rfl) rfl rfl (fun _ => rfl) rfl, rfl⟩
  | pushflag =>
    exact ⟨_, exec_pushflag hh, frameKept_of_store rfl rfl nofun (fun _ => rfl) rfl rfl (fun _ => rfl) rfl, rfl⟩
  | _ => exact nomatch hc

/-- Settles O33: only the two pushes store a word, and none has an operand. -/
theorem class3AndClass4Frame : Obligations.Class3AndClass4Frame := by
  rintro i s hh (hc | hc)
  · exact exec_class3_frame hh hc
  · exact exec_class4_frame hh hc

/-! ## Who reads FLAG (10_state.md R26) -/

theorem exec_frame (i : Instr) {s : State} (hh : s.halted = false) : ∃ t, exec i s = .next t ∧ frameKept i s t := by
  cases hc : i.instrClass with
  | class1 => exact exec_class1_frame hh hc
  | class2 => exact exec_class2_frame hh hc
  | class3 =>
    obtain ⟨t, ht, hframe, -⟩ := exec_class3_frame hh hc
    exact ⟨t, ht, hframe⟩
  | class4 =>
    obtain ⟨t, ht, hframe, -⟩ := exec_class4_frame hh hc
    exact ⟨t, ht, hframe⟩

/-- Started with another FLAG, the instruction leaves the same state, FLAG aside. -/
def FlagBlind (i : Instr) : Prop :=
  ∀ (s t u : State) (f : BitVec 4), s.halted = false → exec i s = .next t → exec i { s with flag := f } = .next u →
    u = { t with flag := u.flag }

/-- It is enough to compare what is known of the two outcomes. -/
theorem FlagBlind.of_exec {i : Instr} {after : State → State}
    (hexec : ∀ s : State, s.halted = false → exec i s = .next (after s))
    (hafter : ∀ (s : State) (f : BitVec 4), s.halted = false →
      ∃ g, after { s with flag := f } = { after s with flag := g }) : FlagBlind i := by
  intro s t u f hh ht hu
  obtain ⟨g, hg⟩ := hafter s f hh
  obtain rfl : after s = t := Host.Outcome.next.inj ((hexec s hh).symm.trans ht)
  obtain rfl : after { s with flag := f } = u := Host.Outcome.next.inj ((hexec { s with flag := f } hh).symm.trans hu)
  rw [hg]

/-- What a result leaves of FLAG is the new FLAG alone. -/
theorem State.resultWritten_withFlag (s : State) (mad : Mode) (rd : Reg) (v : Word) (e f g : BitVec 4) :
    ({ s with flag := f } : State).resultWritten mad rd v g = { s.resultWritten mad rd v e with flag := g } := by
  unfold State.resultWritten
  split <;> rfl

/-- A Class1 instruction whose result does not depend on FLAG. -/
theorem flagBlind_two {i : Instr} {mas mad : Mode} {rs rd : Reg} (op : Word → Word → BitVec 4 → AluResult)
    (hexec : ∀ s, exec i s = .next (runTwoOperand mas rs mad rd (resultStep mad rd op) s))
    (hop : ∀ d v f g, (op d v f).rbus = (op d v g).rbus) : FlagBlind i := by
  refine .of_exec (fun s _ => hexec s) fun s f hh => ?_
  cases hd : combinationDefined mas mad with
  | false =>
    rw [runTwoOperand_undefined mas rs mad rd _ s hd, runTwoOperand_undefined mas rs mad rd _ { s with flag := f } hd]
    exact ⟨f, rfl⟩
  | true =>
    have hstart : ({ s with flag := f } : State).afterTwoOperands mas rs mad rd =
        { s.afterTwoOperands mas rs mad rd with flag := f } := rfl
    rw [runTwoOperand_result rs rd op hh hd, runTwoOperand_result (s := { s with flag := f }) rs rd op hh hd]
    simp only [State.twoOperandResult, hstart, hop _ _ f s.flag]
    exact ⟨_, State.resultWritten_withFlag _ mad rd _ _ f _⟩

/-- A Class2 instruction whose result does not depend on FLAG. -/
theorem flagBlind_one {i : Instr} {mad : Mode} {rd : Reg} (op : Word → Word → BitVec 4 → AluResult)
    (hexec : ∀ s, exec i s = .next (runOneOperand mad rd (resultStep mad rd op) s))
    (hop : ∀ d v f g, (op d v f).rbus = (op d v g).rbus) : FlagBlind i := by
  refine .of_exec (fun s _ => hexec s) fun s f hh => ?_
  have hstart : ({ s with flag := f } : State).afterOperand mad rd = { s.afterOperand mad rd with flag := f } := rfl
  rw [runOneOperand_result mad rd op hh, runOneOperand_result (s := { s with flag := f }) mad rd op hh]
  simp only [State.oneOperandResult, hstart, hop _ _ f s.flag]
  exact ⟨_, State.resultWritten_withFlag _ mad rd _ _ f _⟩

theorem flagBlind_cmp (mas : Mode) (rs : Reg) (mad : Mode) (rd : Reg) : FlagBlind (.cmp mas rs mad rd) := by
  refine .of_exec (fun _ _ => rfl) fun s f hh => ?_
  cases hd : combinationDefined mas mad with
  | false =>
    rw [runTwoOperand_undefined mas rs mad rd _ s hd, runTwoOperand_undefined mas rs mad rd _ { s with flag := f } hd]
    exact ⟨f, rfl⟩
  | true =>
    rw [runTwoOperand_eq mas rs mad rd _ s hh hd, runTwoOperand_eq mas rs mad rd _ { s with flag := f } hh hd,
      runHandler_cmp mad rd (s.afterTwoOperands mas rs mad rd) hh,
      runHandler_cmp mad rd (({ s with flag := f } : State).afterTwoOperands mas rs mad rd) hh]
    exact ⟨_, rfl⟩

theorem flagBlind_pop (mad : Mode) (rd : Reg) : FlagBlind (.pop mad rd) := by
  by_cases hm : mad = .modeB
  · subst hm
    exact .of_exec (fun _ hh => exec_popRegister rd hh) fun _ f _ => ⟨f, rfl⟩
  · exact .of_exec (fun s hh => exec_popMemory hh (s.effectiveAddress_eq_afterOperand_adr rd hm)) fun _ f _ => ⟨f, rfl⟩

/-- The carry goes into the result of `rlc` and `rrc`, the condition of a branch and the word of `pushflag`; the other
instructions only copy flags into FLAG. -/
theorem flagBlind_of_not_readsFlag {i : Instr} (hi : readsFlag i = false) : FlagBlind i := by
  cases i with
  | mov mas rs mad rd | add mas rs mad rd | sub mas rs mad rd | and mas rs mad rd | or mas rs mad rd | xor mas rs mad rd =>
    exact flagBlind_two _ (fun _ => rfl) fun _ _ _ _ => rfl
  | cmp mas rs mad rd => exact flagBlind_cmp mas rs mad rd
  | clr mad rd | neg mad rd | inc mad rd | dec mad rd | asl mad rd | asr mad rd | lsr mad rd | rol mad rd | ror mad rd =>
    exact flagBlind_one _ (fun _ => rfl) fun _ _ _ _ => rfl
  | jmp mad rd => exact .of_exec (fun _ hh => exec_jmp mad rd hh) fun _ f _ => ⟨f, rfl⟩
  | call mad rd => exact .of_exec (fun _ hh => exec_call mad rd hh) fun _ f _ => ⟨f, rfl⟩
  | push mad rd => exact .of_exec (fun _ hh => exec_push mad rd hh) fun _ f _ => ⟨f, rfl⟩
  | pop mad rd => exact flagBlind_pop mad rd
  | br disp =>
    exact .of_exec (fun s hh => exec_eq_next rfl (runHandler_branch (fun _ => true) disp s hh)) fun _ f _ => ⟨f, rfl⟩
  | clc | clv | clz | cls | sec | sev | sez | ses | ccc | scc =>
    exact .of_exec (fun s hh => exec_eq_next rfl (runHandler_flag _ s hh)) fun _ _ _ => ⟨_, rfl⟩
  | nop => exact .of_exec (fun _ hh => exec_nop hh) fun _ f _ => ⟨f, rfl⟩
  | halt => exact .of_exec (fun s _ => exec_halt s) fun _ f _ => ⟨f, rfl⟩
  | wait => exact .of_exec (fun s _ => exec_eq_next rfl (runHandler_wait s)) fun _ f _ => ⟨f, rfl⟩
  | ret => exact .of_exec (fun _ hh => exec_ret hh) fun _ f _ => ⟨f, rfl⟩
  | poppc => exact .of_exec (fun _ hh => exec_poppc hh) fun _ f _ => ⟨f, rfl⟩
  | popflag => exact .of_exec (fun _ hh => exec_popflag hh) fun _ _ _ => ⟨_, rfl⟩
  | reti => exact .of_exec (fun _ hh => exec_reti hh) fun _ _ _ => ⟨_, rfl⟩
  | pushpc => exact .of_exec (fun _ hh => exec_pushpc hh) fun _ f _ => ⟨f, rfl⟩
  | _ => exact nomatch hi

/-- Settles O30: writing is part of the frame of every instruction, reading is seen in what it leaves. -/
theorem flagIsWrittenAndReadOnlyAsListed : Obligations.FlagIsWrittenAndReadOnlyAsListed := by
  intro i s f hh
  obtain ⟨t, ht, -, -, hflag, -⟩ := exec_frame i hh
  obtain ⟨u, hu, -⟩ := exec_frame i (s := { s with flag := f }) hh
  exact ⟨t, u, ht, hu, hflag, fun hi => flagBlind_of_not_readsFlag hi s t u f hh ht hu⟩

end Sys2Proof.Machine
end
